-- ==== Sys2Proof/Word.lean ====
section
/-! DEFINITION. The word types of the CORE and the width changes of 00_scope R8. Every value is unsigned. -/

namespace Sys2Proof

/-- 8 bits: a general register, a memory cell, a timer, the immediate NN (R10, R18, R20, R51). -/
abbrev Byte := BitVec 8

/-- 16 bits: `I`, `pc`, a call-stack entry, an instruction word (R12, R13, R15, R50). -/
abbrev Word := BitVec 16

/-- 12 bits: the address immediate NNN (R51). -/
abbrev Addr12 := BitVec 12

/-- The number of a general register, 0 to 15 (R10). -/
abbrev RegNum := Fin 16

/-- `trunc_8(n)` of R8: `n mod 2^8`. -/
def trunc8 (n : Nat) : Byte := BitVec.ofNat 8 n

/-- `trunc_16(n)` of R8: `n mod 2^16`. -/
def trunc16 (n : Nat) : Word := BitVec.ofNat 16 n

end Sys2Proof
end

