-- ==== Sys2Proof/Config.lean ====
section
/-! DEFINITION. What is fixed for the machine (00_scope R4), the shape of what the driver supplies
(00_scope R7, 44_keypad_timers R148, 60_exceptions R176 to R178), and the FREE VALUES: what the driver
supplies where the state does not say it (constants without a body, of which nothing can be proved). -/

namespace Sys2Proof.Config

/-- `MEM_SIZE` of R4: addresses 0x000 to 0xFFF. -/
def memSize : Nat := 4096

/-- `FONT_BASE` of R4. -/
def fontBase : Nat := 0x050

/-- The number of font bytes: 16 glyphs of 5 bytes (R4, R193). -/
def fontSize : Nat := 80

/-- `PROG_BASE` of R4: load address and reset value of `pc`. -/
def progBase : Nat := 0x200

/-- `PROG_MAX` of R4: the largest loadable program in bytes. -/
def progMax : Nat := 3584

end Sys2Proof.Config

namespace Sys2Proof

/-- The Input Snapshot and the random byte a `step` is given (R52, R148, R101): `keys[k]` is bit `k`. -/
structure StepInput where
  keys     : BitVec 16
  released : Option (Fin 16)
  rnd      : Byte
  deriving DecidableEq, Repr

/-- One of the two timers (R18, R19). -/
inductive Timer where
  | delay
  | sound
  deriving DecidableEq, Repr

/-- What the driver may do to the timers between two steps (R176, R177, R178). -/
inductive TimerOp where
  | tickDelay
  | tickSound
  | writeTimer (which : Timer) (value : Byte)
  deriving DecidableEq, Repr

/-- One turn of the driver: what it does to the timers, then one `step` with these inputs (R178, R185). -/
structure DriverTurn where
  timerOps : List TimerOp
  input    : StepInput
  deriving DecidableEq, Repr

end Sys2Proof

namespace Sys2Proof.Config

/-- FREE VALUE (log entry 2): the pressed flags of step number `n`, where the state does not give them (U10, R148). -/
opaque freeKeys : Nat → BitVec 16

/-- FREE VALUE (log entry 2): the released key of step number `n` (U10, R148, R144). -/
opaque freeReleased : Nat → Option (Fin 16)

/-- FREE VALUE (log entry 2): the random byte of step number `n`, under no law (U8, R101). -/
opaque freeRandom : Nat → Byte

/-- FREE VALUE (log entry 3): what the driver does to the timers before step number `n` (U9, R178). -/
opaque freeTimerOps : Nat → List TimerOp

end Sys2Proof.Config

namespace Sys2Proof

/-- The driver's turn number `n` where the state does not give one: every part of it is free. -/
def freeTurn (n : Nat) : DriverTurn where
  timerOps := Config.freeTimerOps n
  input    := { keys := Config.freeKeys n, released := Config.freeReleased n, rnd := Config.freeRandom n }

end Sys2Proof
end

