-- ==== Sys2Proof/Machine/Display.lean ====
section
/-! DEFINITION. The display collaborator's 64 x 32 pixels and its four operations (43_display R126), and the drawing of a
sprite through them (R128 to R132). -/

namespace Sys2Proof.Machine

/-- The pixels: 32 rows, top first; the pixel in column `x` of a row is its bit `x`, on = 1 (R126). -/
abbrev Display := Vector (BitVec 64) 32

/-- Every pixel off. -/
def Display.blank : Display := Vector.replicate 32 0

/-- `get_pixel(x, y)` (R126). -/
def Display.getPixel (d : Display) (x : Fin 64) (y : Fin 32) : Bool := d[y].getLsbD x.val

/-- `set_pixel(x, y)` (R126). -/
def Display.setPixel (d : Display) (x : Fin 64) (y : Fin 32) : Display :=
  d.set y (d[y] ||| BitVec.twoPow 64 x.val)

/-- `unset_pixel(x, y)` (R126). -/
def Display.unsetPixel (d : Display) (x : Fin 64) (y : Fin 32) : Display :=
  d.set y (d[y] &&& ~~~ BitVec.twoPow 64 x.val)

/-- `clear_screen()` (R126). -/
def Display.clearScreen (_ : Display) : Display := Display.blank

/-! ## Drawing (R128) -/

/-- The display and the collision bit `hit` while a sprite is drawn. -/
structure Drawing where
  disp : Display
  hit  : Bool
  deriving DecidableEq, Repr

/-- One sprite pixel at column `x`, row `y`: dropped when off the screen (R130), left alone when its bit is 0, else
toggled by `get_pixel` and then `unset_pixel` (a collision) or `set_pixel` (R128, R131). -/
def drawPixel (x y : Nat) (bit : Bool) (g : Drawing) : Drawing :=
  if h : y ≤ 31 ∧ x ≤ 63 then
    if bit then
      let px : Fin 64 := ⟨x, Nat.lt_succ_of_le h.2⟩
      let py : Fin 32 := ⟨y, Nat.lt_succ_of_le h.1⟩
      if g.disp.getPixel px py then ⟨g.disp.unsetPixel px py, true⟩
      else ⟨g.disp.setPixel px py, g.hit⟩
    else g
  else g

/-- Column `c` (0..7) of a row byte: bit 7 is the leftmost pixel (R129, log entry 17). -/
def spriteBit (b : Byte) (c : Nat) : Bool := b.getLsbD (7 - c)

/-- The first `cols` columns of one sprite row, ascending (R132). -/
def drawRow (x0 y : Nat) (b : Byte) : Nat → Drawing → Drawing
  | 0, g => g
  | c + 1, g => drawPixel (x0 + c) y (spriteBit b c) (drawRow x0 y b c g)

/-- The sprite's rows, top to bottom (R129, R132). -/
def drawRows (x0 : Nat) : Nat → List Byte → Drawing → Drawing
  | _, [], g => g
  | y, b :: bs, g => drawRows x0 (y + 1) bs (drawRow x0 y b 8 g)

end Sys2Proof.Machine
end

