-- ==== Sys2Proof/Machine/Memory.lean ====
section
/-! DEFINITION. The 4096-byte memory (10_state R20, 20_memory R30 to R41): a list of cells in one canonical form, what an
unlisted address reads as, and the one place where a byte is read and written. -/

namespace Sys2Proof.Machine

/-! ## The font (70_reset_and_hazards R193, log entry 7: PRESUMED) -/

/-- Glyphs 0 to 3 of R193's table. -/
def fontGlyphs0 : List Byte :=
  [0xF0, 0x90, 0x90, 0x90, 0xF0] ++ [0x20, 0x60, 0x20, 0x20, 0x70] ++
  [0xF0, 0x10, 0xF0, 0x80, 0xF0] ++ [0xF0, 0x10, 0xF0, 0x10, 0xF0]

/-- Glyphs 4 to 7 of R193's table. -/
def fontGlyphs4 : List Byte :=
  [0x90, 0x90, 0xF0, 0x10, 0x10] ++ [0xF0, 0x80, 0xF0, 0x10, 0xF0] ++
  [0xF0, 0x80, 0xF0, 0x90, 0xF0] ++ [0xF0, 0x10, 0x20, 0x40, 0x40]

/-- Glyphs 8 to B of R193's table. -/
def fontGlyphs8 : List Byte :=
  [0xF0, 0x90, 0xF0, 0x90, 0xF0] ++ [0xF0, 0x90, 0xF0, 0x10, 0xF0] ++
  [0xF0, 0x90, 0xF0, 0x90, 0x90] ++ [0xE0, 0x90, 0xE0, 0x90, 0xE0]

/-- Glyphs C to F of R193's table. -/
def fontGlyphsC : List Byte :=
  [0xF0, 0x80, 0x80, 0x80, 0xF0] ++ [0xE0, 0x90, 0x90, 0x90, 0xE0] ++
  [0xF0, 0x80, 0xF0, 0x80, 0xF0] ++ [0xF0, 0x80, 0xF0, 0x80, 0x80]

/-- The default value of the parameter `FONT` (R5, R193). -/
def defaultFont : List Byte := fontGlyphs0 ++ fontGlyphs4 ++ fontGlyphs8 ++ fontGlyphsC

/-- What an address reads as where nothing is listed for it: the reset contents of R31, that is the font at 0x050 to
0x09F and 0x00 elsewhere (log entries 7 and 10). -/
def resetByte (a : Nat) : Byte :=
  if Config.fontBase ≤ a then defaultFont.getD (a - Config.fontBase) 0 else 0

/-! ## The memory -/

/-- The cells whose byte differs from the reset contents, addresses strictly rising. -/
abbrev Memory := List Host.Cell

/-- Every listed address lies above `lo`, in the address space, and the addresses rise strictly. -/
def Memory.sortedAbove (lo : Option Nat) : Memory → Bool
  | [] => true
  | (k, _) :: rest =>
    (match lo with
      | none => true
      | some l => l < k) && k < Config.memSize && Memory.sortedAbove (some k) rest

/-- The canonical form: addresses strictly rising and inside the 4096 bytes, no entry equal to what its address reads as
without it. -/
def Memory.wf (m : Memory) : Bool :=
  Memory.sortedAbove none m && m.all (fun c => c.2 != resetByte c.1)

/-- `memory[a]`: the byte itself, with no check (R8). -/
def Memory.read : Memory → Nat → Byte
  | [], a => resetByte a
  | (k, b) :: rest, a => if a = k then b else Memory.read rest a

/-- `memory[a] <- b`, keeping the canonical form. -/
def Memory.write : Memory → Nat → Byte → Memory
  | [], a, b => if b = resetByte a then [] else [(a, b)]
  | (k, v) :: rest, a, b =>
    if a < k then (if b = resetByte a then (k, v) :: rest else (a, b) :: (k, v) :: rest)
    else if a = k then (if b = resetByte a then rest else (a, b) :: rest)
    else (k, v) :: Memory.write rest a b

/-- Bytes stored at ascending addresses from `a`, one at a time in that order (R39, R41). -/
def Memory.writeBytes : Memory → Nat → List Byte → Memory
  | m, _, [] => m
  | m, a, b :: bs => Memory.writeBytes (m.write a b) (a + 1) bs

/-- `n` bytes read at ascending addresses from `a` (R39). -/
def Memory.readBytes (m : Memory) : Nat → Nat → List Byte
  | _, 0 => []
  | a, n + 1 => m.read a :: Memory.readBytes m (a + 1) n

/-! ## The address translator (R32) -/

/-- The identity map with a range check: `ea <= 0x0FFF` is a memory address, anything above is refused; nothing wraps. -/
def inMemory (ea : Nat) : Bool := ea < Config.memSize

/-- The first effective address above 0x0FFF among `base, base + 1, …, base + count - 1`, if there is one: the smallest
is `max(base, 0x1000)` (R40, R117). No byte is asked for when `count = 0` (R128). -/
def firstOutOfRange (base count : Nat) : Option Nat :=
  if count = 0 then none
  else if inMemory (base + (count - 1)) then none
  else some (max base 0x1000)

end Sys2Proof.Machine
end

