-- ==== Sys2Proof/Machine/Params.lean ====
section
/-! DEFINITION. The open parameters of the machine (00_scope R5) and the values State.reset names for them. -/

namespace Sys2Proof.Machine

/-- `STACK_DEPTH`: a number, or unbounded (R5, R15). -/
inductive StackDepth where
  | bounded (n : Nat)
  | unbounded
  deriving DecidableEq, Repr

/-- The open parameters of R5, `Q` among them: the argument of `reset(Q)`. -/
structure Params where
  q               : BitVec 6
  stackDepth      : StackDepth
  soundTimerReset : Byte
  font            : Vector Byte 80
  displayInit     : Display
  deriving DecidableEq, Repr

/-- What R5 asks of the parameters: a finite stack depth is at least 1, the sound timer's start value is not zero. -/
def Params.valid (p : Params) : Bool :=
  p.soundTimerReset != 0 &&
  match p.stackDepth with
  | .bounded n => 1 ≤ n
  | .unbounded => true

/-- The default font as a value of the parameter `FONT` (R193; log entry 7). -/
def defaultFontParam : Vector Byte 80 := Vector.ofFn fun k => resetByte (Config.fontBase + k.val)

/-- The values State.reset names: `Q = 000000` (log entry 8), `STACK_DEPTH = 16` (log entry 5), `SOUND_TIMER_RESET = 1`
(log entry 6), the customary font (log entry 7), all pixels off (log entry 9). -/
def defaultParams : Params where
  q               := 0
  stackDepth      := .bounded 16
  soundTimerReset := 1
  font            := defaultFontParam
  displayInit     := Display.blank

end Sys2Proof.Machine
end

