-- ==== Sys2Proof/Machine/State.lean ====
section
/-! DEFINITION. The machine's state (10_state), the reasons a step can stop, and the state after reset
(70_reset_and_hazards R190). -/

namespace Sys2Proof.Machine

/-- The causes of 60_exceptions R160. -/
inductive FaultCause where
  /-- Code 1, by decode (R161). -/
  | illegalInstruction
  /-- Code 2, by 00EE (R162). -/
  | stackUnderflow
  /-- Code 3, by load only (R197). -/
  | loadError
  /-- Code 4, by 2NNN (R163). -/
  | stackOverflow
  /-- Code 5, by the fetch (R164). -/
  | fetchOutOfRange
  /-- Code 6, by DXYN, FX33, FX55, FX65 (R165). -/
  | memoryOutOfRange
  /-- Code 7, by EX9E, EXA1 (R168). -/
  | keyIndexOutOfRange
  deriving DecidableEq, Repr

/-- The record of the `fault` latch: the cause, `pc` at the start of the faulting step, the fetched word (0x0000 when the
fetch itself faulted), and the further number of R160, an exact integer (10_state R22). -/
structure FaultRecord where
  cause : FaultCause
  atPc  : Word
  word  : Word
  info  : Nat
  deriving DecidableEq, Repr

/-- Why the machine stops with a fault. -/
inductive Fault where
  /-- Raised by a `step` of a halted core, which returns the recorded fault at once (30_encoding R52 line 1,
  60_exceptions R167). Safe: the spec says the same. -/
  | halted (r : FaultRecord)
  /-- Returned by `load` for more than 3584 bytes; the latch is not set (70_reset_and_hazards R197). Safe: the spec says
  the same. -/
  | loadError
  deriving DecidableEq, Repr

/-- Why the model gives a use no meaning. -/
inductive Refusal where
  /-- An instruction that has no meaning yet, by name. No arm of `exec` answers it. Safe. -/
  | notModelled (mnemonic : String)
  /-- A `step` before any successful `load` (R198: "this spec gives them no meaning and a model refuses them"). Safe. -/
  | stepBeforeLoad
  /-- A second successful `load`, or a `load` after the first `step` (R198). Safe. -/
  | loadAfterLoad
  /-- A timer operation before the `load`, outside the only admitted order (60_exceptions R185, log entry 30). Safe. -/
  | timerBeforeLoad
  deriving DecidableEq, Repr

/-- Everything the spec gives the machine, then what the model adds. -/
structure State where
  /-- `V[0]` to `V[15]` (R10). -/
  v          : Vector Byte 16
  /-- The address register `I` (R12). -/
  i          : Word
  /-- The program counter (R13). -/
  pc         : Word
  /-- The call stack, oldest entry first, pushed and popped at the tail (R15). -/
  stack      : List Word
  /-- The delay timer `DT` (R18). -/
  dt         : Byte
  /-- The sound timer `ST` (R19). -/
  st         : Byte
  /-- The memory (R20). -/
  mem        : Memory
  /-- The quirk configuration `Q` (R21). -/
  q          : BitVec 6
  /-- The fault latch (R22). -/
  fault      : Option FaultRecord
  /-- The display collaborator's pixels (R23, R126). -/
  disp       : Display
  /-- The arguments of the step in progress (R52, R148). -/
  input      : StepInput
  /-- The model's own: the parameter `STACK_DEPTH`, fixed for the session (R5; log entry 5). -/
  stackDepth : StackDepth
  /-- The model's own: whether the one successful `load` has happened (R198; log entry 12). -/
  loaded     : Bool
  /-- The model's own: the driver's turns already known (log entry 2). -/
  pending    : List DriverTurn
  /-- The model's own: the number of the step, the index of its free inputs (log entry 2). -/
  turns      : Nat
  /-- The model's own: the output of the last step, none if it raised a fault or there was none (R133; log entry 4). -/
  redraw     : Option Bool
  deriving DecidableEq, Repr

/-- `reset(Q)` with the other open parameters of R5 (R190 to R193): no display call is made, the pixels are
`DISPLAY_INIT` (R192). -/
def State.resetWith (p : Params) : State where
  v          := Vector.replicate 16 0
  i          := 0
  pc         := BitVec.ofNat 16 Config.progBase
  stack      := []
  dt         := 0
  st         := p.soundTimerReset
  mem        := Memory.writeBytes [] Config.fontBase p.font.toList
  q          := p.q
  fault      := none
  disp       := p.displayInit
  input      := { keys := 0, released := none, rnd := 0 }
  stackDepth := p.stackDepth
  loaded     := false
  pending    := []
  turns      := 0
  redraw     := none

/-- The machine right after reset, with the parameters the model names (Machine/Params.lean; log entries 5 to 9). -/
def State.reset : State := State.resetWith defaultParams

end Sys2Proof.Machine
end

