-- ==== Sys2Proof/Machine/Ops.lean ====
section
/-! DEFINITION. The named operations over registers, program counter, call stack, memory and display that the meanings
share, and the raising of a fault. -/

namespace Sys2Proof.Machine

/-! ## Registers (R8, R10) -/

/-- `V[x]` as a read. No register is hardwired (R10). -/
def State.readV (s : State) (x : RegNum) : Byte := s.v[x]

/-- `V[x] <- b`. -/
def State.writeV (s : State) (x : RegNum) (b : Byte) : State := { s with v := s.v.set x b }

/-- `I <- a`. -/
def State.setI (s : State) (a : Word) : State := { s with i := a }

/-- `DT <- b`. -/
def State.setDt (s : State) (b : Byte) : State := { s with dt := b }

/-- `ST <- b`. -/
def State.setSt (s : State) (b : Byte) : State := { s with st := b }

/-! ## Program counter (R13, R52, R71, R78, R144) -/

/-- `pc <- target`, with no check of the target (R79). -/
def State.setPc (s : State) (target : Word) : State := { s with pc := target }

/-- Lines 6 and 7 of R52: the counter is advanced by 2 and the step's output starts as 0, before the instruction's
own rule runs. -/
def State.beginExecute (s : State) : State := { s with pc := s.pc + 2, redraw := some false }

/-- "skip = PC+=2" when the condition holds, on the already advanced counter (R78). -/
def State.skipIf (s : State) (c : Bool) : State := { s with pc := if c then s.pc + 2 else s.pc }

/-- `redraw <- 1` (R127, R128). -/
def State.requestRedraw (s : State) : State := { s with redraw := some true }

/-! ## Call stack (R15, R16, R17) -/

/-- `STACK_DEPTH` is a number and `depth = STACK_DEPTH` (R16). An empty stack is never full, since a depth is at
least 1 (R5). -/
def State.stackFull (s : State) : Bool :=
  match s.stackDepth with
  | .bounded n => s.stack.length == n
  | .unbounded => false

/-- `push(w)`: none when the stack is full, else `w` appended at the tail (R16). -/
def State.push (s : State) (w : Word) : Option State :=
  if s.stackFull then none else some { s with stack := s.stack ++ [w] }

/-- `pop()`: none when the stack is empty, else the tail entry and the state without it (R17). -/
def State.pop (s : State) : Option (Word × State) :=
  match s.stack.getLast? with
  | none => none
  | some w => some (w, { s with stack := s.stack.dropLast })

/-! ## Memory (R8, R39) -/

/-- `MemWrite` of the bytes at ascending addresses from `a`; the address check was made before (R40). -/
def State.storeBytes (s : State) (a : Nat) (bs : List Byte) : State := { s with mem := s.mem.writeBytes a bs }

/-- Registers `V[0]` to `V[count - 1]` loaded from ascending addresses from `a`, one after the other (R115). -/
def loadRegs (m : Memory) (a : Nat) (v : Vector Byte 16) : Nat → Vector Byte 16
  | 0 => v
  | k + 1 => (loadRegs m a v k).setIfInBounds k (m.read (a + k))

/-! ## Display (R126) -/

/-- The display becomes `d`. -/
def State.setDisp (s : State) (d : Display) : State := { s with disp := d }

/-! ## Faults (R160, R166, R171) -/

/-- The cause codes of R160. -/
def FaultCause.code : FaultCause → Nat
  | .illegalInstruction => 1
  | .stackUnderflow => 2
  | .loadError => 3
  | .stackOverflow => 4
  | .fetchOutOfRange => 5
  | .memoryOutOfRange => 6
  | .keyIndexOutOfRange => 7

/-- TAKING A FAULT (`raise` of R8): from the state at the start of the step, only the latch changes, with the record
(cause, `pc`, word, info) of R22; `pc` still holds the address of the faulting instruction and nothing the step wrote
survives (R166). There is no handler, no vector, no mode change (R171); the step gives no `redraw` value (R52). The
answer is the next state with the latch set; the halted core's further steps return the record (log entry 1).
There is NO return beside it: a fault has no return and the latch is cleared by `reset` only (R167, R172). -/
def raise (s : State) (cause : FaultCause) (word : Word) (info : Nat) : Host.Outcome State Fault Refusal :=
  .next { s with fault := some { cause := cause, atPc := s.pc, word := word, info := info }, redraw := none }

/-- The check of R40 and R117: if any of the `count` effective addresses from `I` on exceeds 0x0FFF the step raises
`MemoryOutOfRange` with the smallest such address, else it goes on to `done`. -/
def withDataRange (s : State) (count : Nat) (word : Word) (done : State) : Host.Outcome State Fault Refusal :=
  match firstOutOfRange s.i.toNat count with
  | some ea => raise s .memoryOutOfRange word ea
  | none => .next done

/-- The check of R147: a key code above 15 raises `KeyIndexOutOfRange` with that code, else the step goes on to `done`. -/
def withKeyIndex (s : State) (code : Byte) (word : Word) (done : State) : Host.Outcome State Fault Refusal :=
  if 15 < code.toNat then raise s .keyIndexOutOfRange word code.toNat else .next done

end Sys2Proof.Machine
end

