-- ==== Sys2Proof/Machine/Flags.lean ====
section
/-! DEFINITION. The flag computations: what VF is written with (10_state R11, 41_register_alu R104) and when. -/

namespace Sys2Proof.Machine

/-- A flag byte: 0x01 when its condition holds, 0x00 when it does not (R104). -/
def flagByte (c : Bool) : Byte := if c then 0x01 else 0x00

/-- `V[15] <- flag`, always the instruction's last write to a register (R103). -/
def State.setFlag (s : State) (c : Bool) : State := s.writeV 15 (flagByte c)

/-- The result to `V[x]` first, the flag to `V[15]` second, so that the flag stays when `x = 15` (R103). -/
def State.writeResultAndFlag (s : State) (x : RegNum) (result : Byte) (c : Bool) : State :=
  (s.writeV x result).setFlag c

/-- Carry out of bit 7 (R96). -/
def carryOut (a b : Byte) : Bool := 255 < a.toNat + b.toNat

/-- The no-borrow flag of `a - b`: strictly greater, not "at least" (R97, R99). -/
def noBorrow (a b : Byte) : Bool := b.toNat < a.toNat

/-- The bit 8XY6 shifts out, bit 0 of the value shifted (R98). -/
def bitOutRight (b : Byte) : Bool := b.getLsbD 0

/-- The bit 8XYE shifts out, bit 7 of the value shifted (R100). -/
def bitOutLeft (b : Byte) : Bool := b.getLsbD 7

/-- Overflow out of bit 15 of `I` (R111). -/
def indexOverflow (sum : Nat) : Bool := 0xFFFF < sum

end Sys2Proof.Machine
end

