-- ==== Sys2Proof/Syntax.lean ====
section
/-! DEFINITION. The 34 instructions of 30_encoding R55. A constructor is named by the instruction's pattern, which is
its name in the spec (R60): `op8XY4` is 8XY4. The sprite height of DXYN is a count (checked in WellFormed); every
other operand has the type its field gives it. -/

namespace Sys2Proof

/-- One constructor per row of spec/opcode_table.json. -/
inductive Instr where
  /-- 00E0, clear the display (R127). -/
  | op00E0
  /-- 00EE, return from subroutine (R70). -/
  | op00EE
  /-- 1NNN, jump (R71). -/
  | op1NNN (nnn : Addr12)
  /-- 2NNN, call subroutine (R72). -/
  | op2NNN (nnn : Addr12)
  /-- 3XNN, skip if register equals immediate (R73). -/
  | op3XNN (x : RegNum) (nn : Byte)
  /-- 4XNN, skip if register differs from immediate (R74). -/
  | op4XNN (x : RegNum) (nn : Byte)
  /-- 5XY0, skip if registers equal (R75). -/
  | op5XY0 (x y : RegNum)
  /-- 6XNN, load immediate (R90). -/
  | op6XNN (x : RegNum) (nn : Byte)
  /-- 7XNN, add immediate, no flag (R91). -/
  | op7XNN (x : RegNum) (nn : Byte)
  /-- 8XY0, copy (R92). -/
  | op8XY0 (x y : RegNum)
  /-- 8XY1, bitwise OR (R93). -/
  | op8XY1 (x y : RegNum)
  /-- 8XY2, bitwise AND (R94). -/
  | op8XY2 (x y : RegNum)
  /-- 8XY3, bitwise XOR (R95). -/
  | op8XY3 (x y : RegNum)
  /-- 8XY4, add with carry flag (R96). -/
  | op8XY4 (x y : RegNum)
  /-- 8XY5, subtract with no-borrow flag (R97). -/
  | op8XY5 (x y : RegNum)
  /-- 8XY6, shift right one bit (R98). -/
  | op8XY6 (x y : RegNum)
  /-- 8XY7, reverse subtract with no-borrow flag (R99). -/
  | op8XY7 (x y : RegNum)
  /-- 8XYE, shift left one bit (R100). -/
  | op8XYE (x y : RegNum)
  /-- 9XY0, skip if registers differ (R76). -/
  | op9XY0 (x y : RegNum)
  /-- ANNN, load address register (R110). -/
  | opANNN (nnn : Addr12)
  /-- BNNN, jump with register offset; X is the top nibble of `nnn` (R77). -/
  | opBNNN (nnn : Addr12)
  /-- CXNN, masked random byte (R101). -/
  | opCXNN (x : RegNum) (nn : Byte)
  /-- DXYN, draw sprite of `n` rows (R128). -/
  | opDXYN (x y : RegNum) (n : Nat)
  /-- EX9E, skip if key pressed (R140). -/
  | opEX9E (x : RegNum)
  /-- EXA1, skip if key not pressed (R141). -/
  | opEXA1 (x : RegNum)
  /-- FX07, read delay timer (R142). -/
  | opFX07 (x : RegNum)
  /-- FX0A, wait for a key release (R144). -/
  | opFX0A (x : RegNum)
  /-- FX15, set delay timer (R145). -/
  | opFX15 (x : RegNum)
  /-- FX18, set sound timer (R146). -/
  | opFX18 (x : RegNum)
  /-- FX1E, add register to `I` (R111). -/
  | opFX1E (x : RegNum)
  /-- FX29, point `I` at a font glyph (R112). -/
  | opFX29 (x : RegNum)
  /-- FX33, store binary-coded decimal (R113). -/
  | opFX33 (x : RegNum)
  /-- FX55, store registers `V[0]` to `V[X]` (R114). -/
  | opFX55 (x : RegNum)
  /-- FX65, load registers `V[0]` to `V[X]` (R115). -/
  | opFX65 (x : RegNum)
  deriving DecidableEq, Repr

/-- The instruction's name: its pattern (R60). -/
def Instr.name : Instr → String
  | .op00E0 => "00E0"
  | .op00EE => "00EE"
  | .op1NNN _ => "1NNN"
  | .op2NNN _ => "2NNN"
  | .op3XNN _ _ => "3XNN"
  | .op4XNN _ _ => "4XNN"
  | .op5XY0 _ _ => "5XY0"
  | .op6XNN _ _ => "6XNN"
  | .op7XNN _ _ => "7XNN"
  | .op8XY0 _ _ => "8XY0"
  | .op8XY1 _ _ => "8XY1"
  | .op8XY2 _ _ => "8XY2"
  | .op8XY3 _ _ => "8XY3"
  | .op8XY4 _ _ => "8XY4"
  | .op8XY5 _ _ => "8XY5"
  | .op8XY6 _ _ => "8XY6"
  | .op8XY7 _ _ => "8XY7"
  | .op8XYE _ _ => "8XYE"
  | .op9XY0 _ _ => "9XY0"
  | .opANNN _ => "ANNN"
  | .opBNNN _ => "BNNN"
  | .opCXNN _ _ => "CXNN"
  | .opDXYN _ _ _ => "DXYN"
  | .opEX9E _ => "EX9E"
  | .opEXA1 _ => "EXA1"
  | .opFX07 _ => "FX07"
  | .opFX0A _ => "FX0A"
  | .opFX15 _ => "FX15"
  | .opFX18 _ => "FX18"
  | .opFX1E _ => "FX1E"
  | .opFX29 _ => "FX29"
  | .opFX33 _ => "FX33"
  | .opFX55 _ => "FX55"
  | .opFX65 _ => "FX65"

end Sys2Proof
end

