-- ==== Sys2Proof/Decode.lean ====
section
/-! DEFINITION. Instruction encoding and decode (30_encoding R50 to R59): the fields, the opcode map as a table (R55), the
decoder as the decision tree (R56), total on any bytes and rejecting by name, and the encoder. -/

namespace Sys2Proof

/-- `hi : lo` of R8 on two bytes: `hi` in bits 15..8, `lo` in bits 7..0. The byte at the lower address is `hi` (R34). -/
def concatBytes (hi lo : Byte) : Word := BitVec.ofNat 16 (hi.toNat * 0x100 + lo.toNat)

/-- `op[15:8]` (R34). -/
def highByte (w : Word) : Byte := BitVec.ofNat 8 (w.toNat / 0x100)

/-- `op[7:0]` (R34). -/
def lowByte (w : Word) : Byte := BitVec.ofNat 8 w.toNat

/-! ## Fields (R50, R51) -/

/-- The first nibble `n3 = op[15:12]` (R50). -/
def fieldN3 (w : Word) : Nat := w.toNat / 0x1000 % 0x10

/-- `X = op[11:8]` (R51). -/
def fieldX (w : Word) : RegNum := ⟨w.toNat / 0x100 % 0x10, Nat.mod_lt _ (by decide)⟩

/-- `Y = op[7:4]` (R51). -/
def fieldY (w : Word) : RegNum := ⟨w.toNat / 0x10 % 0x10, Nat.mod_lt _ (by decide)⟩

/-- `N = op[3:0]` (R51); as the last nibble `n0` it is also a secondary key (R53). -/
def fieldN (w : Word) : Nat := w.toNat % 0x10

/-- `NN = op[7:0]` (R51). -/
def fieldNN (w : Word) : Byte := BitVec.ofNat 8 w.toNat

/-- `NNN = op[11:0]` (R51). -/
def fieldNNN (w : Word) : Addr12 := BitVec.ofNat 12 w.toNat

/-- The top nibble `NNN[11:8]` of an address: BNNN's register number (R51, R77). -/
def addrX (nnn : Addr12) : RegNum := ⟨nnn.toNat / 0x100 % 0x10, Nat.mod_lt _ (by decide)⟩

/-! ## The opcode map as a table (R55) -/

/-- One row of R55: a word `op` decodes to the row iff `op & mask = match`. -/
structure OpcodeRow where
  name  : String
  mask  : Word
  value : Word
  deriving DecidableEq, Repr

/-- `op & mask = match` (R55). -/
def OpcodeRow.selects (r : OpcodeRow) (w : Word) : Bool := w &&& r.mask == r.value

/-- The rows of the first nibbles 0 to 5, 9 and B (R55). -/
def opcodeRowsControl : List OpcodeRow := [
  ⟨"00E0", 0xFFFF, 0x00E0⟩,
  ⟨"00EE", 0xFFFF, 0x00EE⟩,
  ⟨"1NNN", 0xF000, 0x1000⟩,
  ⟨"2NNN", 0xF000, 0x2000⟩,
  ⟨"3XNN", 0xF000, 0x3000⟩,
  ⟨"4XNN", 0xF000, 0x4000⟩,
  ⟨"5XY0", 0xF00F, 0x5000⟩,
  ⟨"9XY0", 0xF00F, 0x9000⟩,
  ⟨"BNNN", 0xF000, 0xB000⟩]

/-- The rows of the first nibbles 6, 7, 8 and C (R55). -/
def opcodeRowsAlu : List OpcodeRow := [
  ⟨"6XNN", 0xF000, 0x6000⟩,
  ⟨"7XNN", 0xF000, 0x7000⟩,
  ⟨"8XY0", 0xF00F, 0x8000⟩,
  ⟨"8XY1", 0xF00F, 0x8001⟩,
  ⟨"8XY2", 0xF00F, 0x8002⟩,
  ⟨"8XY3", 0xF00F, 0x8003⟩,
  ⟨"8XY4", 0xF00F, 0x8004⟩,
  ⟨"8XY5", 0xF00F, 0x8005⟩,
  ⟨"8XY6", 0xF00F, 0x8006⟩,
  ⟨"8XY7", 0xF00F, 0x8007⟩,
  ⟨"8XYE", 0xF00F, 0x800E⟩,
  ⟨"CXNN", 0xF000, 0xC000⟩]

/-- The rows of the first nibbles A, D, E and F (R55). -/
def opcodeRowsDevice : List OpcodeRow := [
  ⟨"ANNN", 0xF000, 0xA000⟩,
  ⟨"DXYN", 0xF000, 0xD000⟩,
  ⟨"EX9E", 0xF0FF, 0xE09E⟩,
  ⟨"EXA1", 0xF0FF, 0xE0A1⟩,
  ⟨"FX07", 0xF0FF, 0xF007⟩,
  ⟨"FX0A", 0xF0FF, 0xF00A⟩,
  ⟨"FX15", 0xF0FF, 0xF015⟩,
  ⟨"FX18", 0xF0FF, 0xF018⟩,
  ⟨"FX1E", 0xF0FF, 0xF01E⟩,
  ⟨"FX29", 0xF0FF, 0xF029⟩,
  ⟨"FX33", 0xF0FF, 0xF033⟩,
  ⟨"FX55", 0xF0FF, 0xF055⟩,
  ⟨"FX65", 0xF0FF, 0xF065⟩]

/-- The complete set of legal instructions: 34 rows (R55). -/
def opcodeTable : List OpcodeRow := opcodeRowsControl ++ opcodeRowsAlu ++ opcodeRowsDevice

/-! ## Decode (R53, R56, R58) -/

/-- Why bytes are no instruction. -/
inductive DecodeError where
  /-- Fewer than two bytes (every instruction is exactly 16 bits: R50). -/
  | truncated
  /-- The word matches no row of R55 (R58). -/
  | illegal (w : Word)
  deriving DecidableEq, Repr

/-- First nibble 0: the whole word is the secondary key (R53, R56). -/
def decodeFamily0 (w : Word) : Option Instr :=
  if w = 0x00E0 then some .op00E0
  else if w = 0x00EE then some .op00EE
  else none

/-- First nibble 5: `n0` is the secondary key (R56). -/
def decodeFamily5 (w : Word) : Option Instr :=
  if fieldN w = 0 then some (.op5XY0 (fieldX w) (fieldY w)) else none

/-- First nibble 8: `n0` is the secondary key (R56). -/
def decodeFamily8 (w : Word) : Option Instr :=
  match fieldN w with
  | 0x0 => some (.op8XY0 (fieldX w) (fieldY w))
  | 0x1 => some (.op8XY1 (fieldX w) (fieldY w))
  | 0x2 => some (.op8XY2 (fieldX w) (fieldY w))
  | 0x3 => some (.op8XY3 (fieldX w) (fieldY w))
  | 0x4 => some (.op8XY4 (fieldX w) (fieldY w))
  | 0x5 => some (.op8XY5 (fieldX w) (fieldY w))
  | 0x6 => some (.op8XY6 (fieldX w) (fieldY w))
  | 0x7 => some (.op8XY7 (fieldX w) (fieldY w))
  | 0xE => some (.op8XYE (fieldX w) (fieldY w))
  | _ => none

/-- First nibble 9: `n0` is the secondary key (R56). -/
def decodeFamily9 (w : Word) : Option Instr :=
  if fieldN w = 0 then some (.op9XY0 (fieldX w) (fieldY w)) else none

/-- First nibble E: `NN` is the secondary key (R56). -/
def decodeFamilyE (w : Word) : Option Instr :=
  match (fieldNN w).toNat with
  | 0x9E => some (.opEX9E (fieldX w))
  | 0xA1 => some (.opEXA1 (fieldX w))
  | _ => none

/-- First nibble F: `NN` is the secondary key (R56). -/
def decodeFamilyF (w : Word) : Option Instr :=
  match (fieldNN w).toNat with
  | 0x07 => some (.opFX07 (fieldX w))
  | 0x0A => some (.opFX0A (fieldX w))
  | 0x15 => some (.opFX15 (fieldX w))
  | 0x18 => some (.opFX18 (fieldX w))
  | 0x1E => some (.opFX1E (fieldX w))
  | 0x29 => some (.opFX29 (fieldX w))
  | 0x33 => some (.opFX33 (fieldX w))
  | 0x55 => some (.opFX55 (fieldX w))
  | 0x65 => some (.opFX65 (fieldX w))
  | _ => none

/-- The decision tree of R56 on the first nibble; `none` for the illegal words of R58. -/
def decodeTree (w : Word) : Option Instr :=
  match fieldN3 w with
  | 0x0 => decodeFamily0 w
  | 0x1 => some (.op1NNN (fieldNNN w))
  | 0x2 => some (.op2NNN (fieldNNN w))
  | 0x3 => some (.op3XNN (fieldX w) (fieldNN w))
  | 0x4 => some (.op4XNN (fieldX w) (fieldNN w))
  | 0x5 => decodeFamily5 w
  | 0x6 => some (.op6XNN (fieldX w) (fieldNN w))
  | 0x7 => some (.op7XNN (fieldX w) (fieldNN w))
  | 0x8 => decodeFamily8 w
  | 0x9 => decodeFamily9 w
  | 0xA => some (.opANNN (fieldNNN w))
  | 0xB => some (.opBNNN (fieldNNN w))
  | 0xC => some (.opCXNN (fieldX w) (fieldNN w))
  | 0xD => some (.opDXYN (fieldX w) (fieldY w) (fieldN w))
  | 0xE => decodeFamilyE w
  | 0xF => decodeFamilyF w
  | _ => none

/-- Decoding one word: pure, total, an illegal word rejected by name (R51, R58). -/
def decodeWord (w : Word) : Except DecodeError Instr :=
  match decodeTree w with
  | some i => .ok i
  | none => .error (.illegal w)

/-- Decoding from bytes, the byte at the lower address first (R34): the instruction and the bytes after it. -/
def decode : List Byte → Except DecodeError (Instr × List Byte)
  | hi :: lo :: rest =>
    match decodeWord (concatBytes hi lo) with
    | .ok i => .ok (i, rest)
    | .error e => .error e
  | _ => .error .truncated

/-! ## Encode (R54) -/

/-- Form A: `k NNN` (R54). -/
def formA (k : Nat) (nnn : Addr12) : Word := BitVec.ofNat 16 (k * 0x1000 + nnn.toNat)

/-- Form XI: `k X NN` (R54). -/
def formXI (k : Nat) (x : RegNum) (nn : Byte) : Word := BitVec.ofNat 16 (k * 0x1000 + x.val * 0x100 + nn.toNat)

/-- Forms XY and XYN: `k X Y j`, the last nibble fixed or the height N (R54). -/
def formXY (k : Nat) (x y : RegNum) (j : Nat) : Word :=
  BitVec.ofNat 16 (k * 0x1000 + x.val * 0x100 + y.val * 0x10 + j % 0x10)

/-- Form XF: `k X jj` (R54). -/
def formXF (k : Nat) (x : RegNum) (jj : Nat) : Word := BitVec.ofNat 16 (k * 0x1000 + x.val * 0x100 + jj)

/-- The word of an instruction, from R54 and R55. -/
def encode : Instr → Word
  | .op00E0 => 0x00E0
  | .op00EE => 0x00EE
  | .op1NNN nnn => formA 0x1 nnn
  | .op2NNN nnn => formA 0x2 nnn
  | .op3XNN x nn => formXI 0x3 x nn
  | .op4XNN x nn => formXI 0x4 x nn
  | .op5XY0 x y => formXY 0x5 x y 0x0
  | .op6XNN x nn => formXI 0x6 x nn
  | .op7XNN x nn => formXI 0x7 x nn
  | .op8XY0 x y => formXY 0x8 x y 0x0
  | .op8XY1 x y => formXY 0x8 x y 0x1
  | .op8XY2 x y => formXY 0x8 x y 0x2
  | .op8XY3 x y => formXY 0x8 x y 0x3
  | .op8XY4 x y => formXY 0x8 x y 0x4
  | .op8XY5 x y => formXY 0x8 x y 0x5
  | .op8XY6 x y => formXY 0x8 x y 0x6
  | .op8XY7 x y => formXY 0x8 x y 0x7
  | .op8XYE x y => formXY 0x8 x y 0xE
  | .op9XY0 x y => formXY 0x9 x y 0x0
  | .opANNN nnn => formA 0xA nnn
  | .opBNNN nnn => formA 0xB nnn
  | .opCXNN x nn => formXI 0xC x nn
  | .opDXYN x y n => formXY 0xD x y n
  | .opEX9E x => formXF 0xE x 0x9E
  | .opEXA1 x => formXF 0xE x 0xA1
  | .opFX07 x => formXF 0xF x 0x07
  | .opFX0A x => formXF 0xF x 0x0A
  | .opFX15 x => formXF 0xF x 0x15
  | .opFX18 x => formXF 0xF x 0x18
  | .opFX1E x => formXF 0xF x 0x1E
  | .opFX29 x => formXF 0xF x 0x29
  | .opFX33 x => formXF 0xF x 0x33
  | .opFX55 x => formXF 0xF x 0x55
  | .opFX65 x => formXF 0xF x 0x65

/-- The two bytes of an instruction, the high byte at the lower address (R34, R50). -/
def encodeBytes (i : Instr) : List Byte := [highByte (encode i), lowByte (encode i)]

/-! ## The host's view of a table word -/

/-- The two bytes, as the hardware stores them, of the instruction whose bits are `w` (bit 0 the least significant bit of
the word); every bit above `nbits` is 0. -/
def tableBytes (nbits w : Nat) : List Byte :=
  let op : Word := BitVec.ofNat 16 (w % 2 ^ nbits)
  [highByte op, lowByte op]

/-- What the decoder reads from the instruction whose bits are `w`, numbered as spec/opcode_table.json numbers them. -/
def decodeTableWord (nbits w : Nat) : Option Instr :=
  match decode (tableBytes nbits w) with
  | .ok (i, _) => some i
  | .error _ => none

end Sys2Proof
end

