-- ==== Sys2Proof/Machine/Operands.lean ====
section
/-! DEFINITION. The operand values the instructions read: immediates widened, the registers the quirk bits choose, the
step's inputs. Each is read from the state at the start of the instruction (41_register_alu R102). -/

namespace Sys2Proof.Machine

/-! ## Quirk bits (10_state R21, log entry 20) -/

/-- `Q.shift_uses_vy`, bit 0. -/
def State.shiftUsesVy (s : State) : Bool := s.q.getLsbD 0

/-- `Q.ldst_increments_i`, bit 1. -/
def State.ldstIncrementsI (s : State) : Bool := s.q.getLsbD 1

/-- `Q.jump_offset_uses_vx`, bit 2. -/
def State.jumpOffsetUsesVx (s : State) : Bool := s.q.getLsbD 2

/-- `Q.add_to_i_sets_flag`, bit 3: 0 writes VF, 1 leaves it (90_conflicts C1). -/
def State.addToISetsFlag (s : State) : Bool := s.q.getLsbD 3

/-! ## Operands -/

/-- `zext_16(NNN)` (R51). -/
def addrOperand (nnn : Addr12) : Word := nnn.setWidth 16

/-- BNNN's target: `trunc_16(zext_16(NNN) + zext_16(off))`, `off` being `V[0]` or `V[X]` (R77). -/
def State.jumpTarget (s : State) (nnn : Addr12) : Word :=
  let off := if s.jumpOffsetUsesVx then s.readV (addrX nnn) else s.readV 0
  trunc16 (nnn.toNat + off.toNat)

/-- The value 8XY6 and 8XYE shift: `V[Y]` or `V[X]` (R98, R100). -/
def State.shiftOperand (s : State) (x y : RegNum) : Byte :=
  if s.shiftUsesVy then s.readV y else s.readV x

/-- `keys[k]` of the Input Snapshot for the key code in `code` (R140, R148). -/
def State.keyPressed (s : State) (code : Byte) : Bool := s.input.keys.getLsbD code.toNat

/-- The exact sum `I + V[x]` of FX1E (R111). -/
def State.indexSum (s : State) (x : RegNum) : Nat := s.i.toNat + (s.readV x).toNat

/-- FX29's address of the glyph for the low nibble of `code`: `0x0050 + 5 * d` (R112). -/
def glyphAddr (code : Byte) : Word := trunc16 (Config.fontBase + 5 * (code.toNat % 16))

/-- The three decimal digits of a byte, most significant first (R113). -/
def bcdDigits (b : Byte) : List Byte :=
  [trunc8 (b.toNat / 100), trunc8 (b.toNat / 10 % 10), trunc8 (b.toNat % 10)]

/-- `V[0]` to `V[x]` in ascending order (R114). -/
def State.firstRegs (s : State) (x : RegNum) : List Byte := s.v.toList.take (x.val + 1)

/-- `I` after FX55 or FX65 has moved `count` registers: `I + count` when `Q.ldst_increments_i`, else unchanged (R114,
R115). -/
def State.indexAfter (s : State) (count : Nat) : Word :=
  if s.ldstIncrementsI then trunc16 (s.i.toNat + count) else s.i

/-- DXYN's start column, `V[X] mod 64` (R128, R129). -/
def State.spriteX (s : State) (x : RegNum) : Nat := (s.readV x).toNat % 64

/-- DXYN's start row, `V[Y] mod 32` (R128, R129). -/
def State.spriteY (s : State) (y : RegNum) : Nat := (s.readV y).toNat % 32

/-- The sprite's `n` row bytes, from `memory[I]` on (R129). -/
def State.spriteBytes (s : State) (n : Nat) : List Byte := s.mem.readBytes s.i.toNat n

end Sys2Proof.Machine
end

