-- ==== Sys2Proof/Machine/Alu.lean ====
section
/-! DEFINITION. 41_register_alu: 6XNN, 7XNN, 8XY0 to 8XY7, 8XYE, CXNN. None of them can fault. -/

namespace Sys2Proof.Machine

/-- 6XNN, load immediate (R90). -/
def exec6XNN (x : RegNum) (nn : Byte) (s : State) : Host.Outcome State Fault Refusal :=
  .next (s.beginExecute.writeV x nn)

/-- 7XNN, add immediate, no flag (R91). -/
def exec7XNN (x : RegNum) (nn : Byte) (s : State) : Host.Outcome State Fault Refusal :=
  .next (s.beginExecute.writeV x (s.readV x + nn))

/-- 8XY0, copy (R92). -/
def exec8XY0 (x y : RegNum) (s : State) : Host.Outcome State Fault Refusal :=
  .next (s.beginExecute.writeV x (s.readV y))

/-- 8XY1, bitwise OR (R93). -/
def exec8XY1 (x y : RegNum) (s : State) : Host.Outcome State Fault Refusal :=
  .next (s.beginExecute.writeV x (s.readV x ||| s.readV y))

/-- 8XY2, bitwise AND (R94). -/
def exec8XY2 (x y : RegNum) (s : State) : Host.Outcome State Fault Refusal :=
  .next (s.beginExecute.writeV x (s.readV x &&& s.readV y))

/-- 8XY3, bitwise XOR (R95). -/
def exec8XY3 (x y : RegNum) (s : State) : Host.Outcome State Fault Refusal :=
  .next (s.beginExecute.writeV x (s.readV x ^^^ s.readV y))

/-- 8XY4, add with carry flag (R96). -/
def exec8XY4 (x y : RegNum) (s : State) : Host.Outcome State Fault Refusal :=
  let vx0 := s.readV x
  let vy0 := s.readV y
  .next (s.beginExecute.writeResultAndFlag x (vx0 + vy0) (carryOut vx0 vy0))

/-- 8XY5, subtract `V[Y]` from `V[X]`, no-borrow flag (R97). -/
def exec8XY5 (x y : RegNum) (s : State) : Host.Outcome State Fault Refusal :=
  let vx0 := s.readV x
  let vy0 := s.readV y
  .next (s.beginExecute.writeResultAndFlag x (vx0 - vy0) (noBorrow vx0 vy0))

/-- 8XY6, shift right one bit (R98). -/
def exec8XY6 (x y : RegNum) (s : State) : Host.Outcome State Fault Refusal :=
  let b := s.shiftOperand x y
  .next (s.beginExecute.writeResultAndFlag x (b >>> 1) (bitOutRight b))

/-- 8XY7, reverse subtract, `V[Y]` minus `V[X]`, no-borrow flag (R99). -/
def exec8XY7 (x y : RegNum) (s : State) : Host.Outcome State Fault Refusal :=
  let vx0 := s.readV x
  let vy0 := s.readV y
  .next (s.beginExecute.writeResultAndFlag x (vy0 - vx0) (noBorrow vy0 vx0))

/-- 8XYE, shift left one bit (R100). -/
def exec8XYE (x y : RegNum) (s : State) : Host.Outcome State Fault Refusal :=
  let b := s.shiftOperand x y
  .next (s.beginExecute.writeResultAndFlag x (b <<< 1) (bitOutLeft b))

/-- CXNN, masked random byte; `rnd` is the step's input (R101). -/
def execCXNN (x : RegNum) (nn : Byte) (s : State) : Host.Outcome State Fault Refusal :=
  .next (s.beginExecute.writeV x (s.input.rnd &&& nn))

end Sys2Proof.Machine
end

