-- ==== Sys2Proof/Machine/Control.lean ====
section
/-! DEFINITION. 40_control_transfer: 00EE, 1NNN, 2NNN, 3XNN, 4XNN, 5XY0, 9XY0, BNNN. Each meaning starts from the state at
the start of the step (`pc = a`) and does lines 6 to 9 of 30_encoding R52. -/

namespace Sys2Proof.Machine

/-- 00EE, return from subroutine (R70). -/
def exec00EE (s : State) : Host.Outcome State Fault Refusal :=
  match s.beginExecute.pop with
  | none => raise s .stackUnderflow (encode .op00EE) 0
  | some (t, s') => .next (s'.setPc t)

/-- 1NNN, jump (R71). -/
def exec1NNN (nnn : Addr12) (s : State) : Host.Outcome State Fault Refusal :=
  .next (s.beginExecute.setPc (addrOperand nnn))

/-- 2NNN, call subroutine: the already advanced counter is pushed (R72). -/
def exec2NNN (nnn : Addr12) (s : State) : Host.Outcome State Fault Refusal :=
  match s.beginExecute.push s.beginExecute.pc with
  | none => raise s .stackOverflow (encode (.op2NNN nnn)) 0
  | some s' => .next (s'.setPc (addrOperand nnn))

/-- 3XNN, skip if register equals immediate (R73). -/
def exec3XNN (x : RegNum) (nn : Byte) (s : State) : Host.Outcome State Fault Refusal :=
  .next (s.beginExecute.skipIf (s.readV x == nn))

/-- 4XNN, skip if register differs from immediate (R74). -/
def exec4XNN (x : RegNum) (nn : Byte) (s : State) : Host.Outcome State Fault Refusal :=
  .next (s.beginExecute.skipIf (s.readV x != nn))

/-- 5XY0, skip if registers equal (R75). -/
def exec5XY0 (x y : RegNum) (s : State) : Host.Outcome State Fault Refusal :=
  .next (s.beginExecute.skipIf (s.readV x == s.readV y))

/-- 9XY0, skip if registers differ (R76). -/
def exec9XY0 (x y : RegNum) (s : State) : Host.Outcome State Fault Refusal :=
  .next (s.beginExecute.skipIf (s.readV x != s.readV y))

/-- BNNN, jump with register offset (R77). -/
def execBNNN (nnn : Addr12) (s : State) : Host.Outcome State Fault Refusal :=
  .next (s.beginExecute.setPc (s.jumpTarget nnn))

end Sys2Proof.Machine
end

