-- ==== Sys2Proof/Machine/Draw.lean ====
section
/-! DEFINITION. 43_display: 00E0, DXYN. -/

namespace Sys2Proof.Machine

/-- 00E0, clear the display (R127). -/
def exec00E0 (s : State) : Host.Outcome State Fault Refusal :=
  .next (s.beginExecute.setDisp s.disp.clearScreen).requestRedraw

/-- DXYN, draw sprite: the coordinates and `I` are read before VF is written, the range is checked before any display
operation (R128). -/
def execDXYN (x y : RegNum) (n : Nat) (s : State) : Host.Outcome State Fault Refusal :=
  let g := drawRows (s.spriteX x) (s.spriteY y) (s.spriteBytes n) ⟨s.disp, false⟩
  withDataRange s n (encode (.opDXYN x y n)) ((s.beginExecute.setDisp g.disp).setFlag g.hit).requestRedraw

end Sys2Proof.Machine
end

