-- ==== Sys2Proof/Machine/Index.lean ====
section
/-! DEFINITION. 42_index_memory: ANNN, FX1E, FX29, FX33, FX55, FX65. The three transfers check their whole address range
before they change anything (R117). -/

namespace Sys2Proof.Machine

/-- ANNN, load address register (R110). -/
def execANNN (nnn : Addr12) (s : State) : Host.Outcome State Fault Refusal :=
  .next (s.beginExecute.setI (addrOperand nnn))

/-- FX1E, add register to `I`; VF gets the overflow only when `Q.add_to_i_sets_flag = 0` (R111). -/
def execFX1E (x : RegNum) (s : State) : Host.Outcome State Fault Refusal :=
  let sum := s.indexSum x
  let s' := s.beginExecute.setI (trunc16 sum)
  .next (if s.addToISetsFlag then s' else s'.setFlag (indexOverflow sum))

/-- FX29, point `I` at a font glyph (R112). -/
def execFX29 (x : RegNum) (s : State) : Host.Outcome State Fault Refusal :=
  .next (s.beginExecute.setI (glyphAddr (s.readV x)))

/-- FX33, store binary-coded decimal at `I`, `I + 1`, `I + 2` (R113). -/
def execFX33 (x : RegNum) (s : State) : Host.Outcome State Fault Refusal :=
  withDataRange s 3 (encode (.opFX33 x)) (s.beginExecute.storeBytes s.i.toNat (bcdDigits (s.readV x)))

/-- FX55, store registers `V[0]` to `V[X]` from `I` on (R114). -/
def execFX55 (x : RegNum) (s : State) : Host.Outcome State Fault Refusal :=
  withDataRange s (x.val + 1) (encode (.opFX55 x))
    ((s.beginExecute.storeBytes s.i.toNat (s.firstRegs x)).setI (s.indexAfter (x.val + 1)))

/-- FX65, load registers `V[0]` to `V[X]` from `I` on (R115). -/
def execFX65 (x : RegNum) (s : State) : Host.Outcome State Fault Refusal :=
  let s' := s.beginExecute
  withDataRange s (x.val + 1) (encode (.opFX65 x))
    (State.setI { s' with v := loadRegs s.mem s.i.toNat s.v (x.val + 1) } (s.indexAfter (x.val + 1)))

end Sys2Proof.Machine
end

