-- ==== Sys2Proof/Machine/Keypad.lean ====
section
/-! DEFINITION. 44_keypad_timers: EX9E, EXA1, FX0A, FX07, FX15, FX18. -/

namespace Sys2Proof.Machine

/-- EX9E, skip if key pressed (R140, R147). -/
def execEX9E (x : RegNum) (s : State) : Host.Outcome State Fault Refusal :=
  let k := s.readV x
  withKeyIndex s k (encode (.opEX9E x)) (s.beginExecute.skipIf (s.keyPressed k))

/-- EXA1, skip if key not pressed (R141, R147). -/
def execEXA1 (x : RegNum) (s : State) : Host.Outcome State Fault Refusal :=
  let k := s.readV x
  withKeyIndex s k (encode (.opEXA1 x)) (s.beginExecute.skipIf (!s.keyPressed k))

/-- FX0A, wait for a key release: with none the counter goes back to this instruction (R144). -/
def execFX0A (x : RegNum) (s : State) : Host.Outcome State Fault Refusal :=
  let s' := s.beginExecute
  .next (match s.input.released with
    | none => s'.setPc (s'.pc - 2)
    | some k => s'.writeV x (trunc8 k.val))

/-- FX07, read delay timer (R142). -/
def execFX07 (x : RegNum) (s : State) : Host.Outcome State Fault Refusal :=
  .next (s.beginExecute.writeV x s.dt)

/-- FX15, set delay timer (R145). -/
def execFX15 (x : RegNum) (s : State) : Host.Outcome State Fault Refusal :=
  .next (s.beginExecute.setDt (s.readV x))

/-- FX18, set sound timer (R146). -/
def execFX18 (x : RegNum) (s : State) : Host.Outcome State Fault Refusal :=
  .next (s.beginExecute.setSt (s.readV x))

end Sys2Proof.Machine
end

