-- ==== Sys2Proof/Machine/Driver.lean ====
section
/-! DEFINITION. The driver's operations on the timers and the program load (60_exceptions R176 to R178, R185;
70_reset_and_hazards R197, R198), and the driver's turn before a step. -/

namespace Sys2Proof.Machine

/-! ## Timers -/

/-- The saturating decrement: "never below zero" (R176, R177). -/
def tickByte (b : Byte) : Byte := if b = 0 then 0 else b - 1

/-- One timer operation on the pair `(DT, ST)` (R176, R177, R178). -/
def timerOpOn : TimerOp → Byte × Byte → Byte × Byte
  | .tickDelay, (d, t) => (tickByte d, t)
  | .tickSound, (d, t) => (d, tickByte t)
  | .writeTimer .delay b, (_, t) => (b, t)
  | .writeTimer .sound b, (d, _) => (d, b)

/-- Timer operations one after the other, in the order the driver chose. -/
def timerOpsOn : List TimerOp → Byte × Byte → Byte × Byte
  | [], p => p
  | op :: ops, p => timerOpsOn ops (timerOpOn op p)

/-- `(DT, ST)` become `p`; a timer operation touches nothing else. -/
def State.setTimers (s : State) (p : Byte × Byte) : State := { s with dt := p.1, st := p.2 }

/-- `tick_delay()`, `tick_sound()`, `write_timer(which, v)`; they work while the core is halted too (R167). -/
def State.timerOp (s : State) (op : TimerOp) : State := s.setTimers (timerOpOn op (s.dt, s.st))

/-- `read_timer(which)` (R178). -/
def State.readTimer (s : State) : Timer → Byte
  | .delay => s.dt
  | .sound => s.st

/-! ## Load (R197, R198) -/

/-- `load(bytes)`: more than 3584 bytes give `LoadError` and change nothing; else the bytes stand from 0x200 on and
nothing else changes. Only the first successful load, before any step, has a meaning (log entries 12 and 14). -/
def load (bytes : List Byte) (s : State) : Host.Outcome State Fault Refusal :=
  if s.loaded then .refused .loadAfterLoad
  else if Config.progMax < bytes.length then .fault .loadError
  else .next { s with mem := s.mem.writeBytes Config.progBase bytes, loaded := true }

/-! ## The driver's turn before a step (log entries 2 and 3) -/

/-- The turn the driver takes next: the first of those already known, else a free one. -/
def State.nextTurn (s : State) : DriverTurn :=
  match s.pending with
  | t :: _ => t
  | [] => freeTurn s.turns

/-- The driver acts on the timers and hands over the step's inputs; nothing else of the machine changes. -/
def State.takeTurn (s : State) : State :=
  { s.setTimers (timerOpsOn s.nextTurn.timerOps (s.dt, s.st)) with
    input := s.nextTurn.input, pending := s.pending.tail, turns := s.turns + 1 }

end Sys2Proof.Machine
end

