-- ==== Sys2Proof/Machine/Cycle.lean ====
section
/-! DEFINITION. The fetch and the step of 30_encoding R52, the driver's operations as one function, and the placing of an
instruction where the next fetch reads it. -/

namespace Sys2Proof.Machine

/-- The fetch of R33 and R34: both bytes must be memory addresses; the byte at the lower address is the high byte of the
word; there is no alignment check (R36). -/
def State.fetchWord (s : State) : Option Word :=
  if inMemory s.pc.toNat && inMemory (s.pc.toNat + 1) then
    some (concatBytes (s.mem.read s.pc.toNat) (s.mem.read (s.pc.toNat + 1)))
  else none

/-- Lines 2 to 9 of R52: the fetch fault, the decode fault, else the instruction. -/
def fetchExecute (s : State) : Host.Outcome State Fault Refusal :=
  match s.fetchWord with
  | none => raise s .fetchOutOfRange 0x0000 s.pc.toNat
  | some op =>
    match decodeWord op with
    | .error _ => raise s .illegalInstruction op 0
    | .ok i => exec i s

/-- `step(keys, released, rnd)` of R52, its inputs standing in `s.input`: a halted core returns the recorded fault
(line 1, R167); before a load it has no meaning (R198). -/
def cycle (s : State) : Host.Outcome State Fault Refusal :=
  match s.fault with
  | some r => .fault (.halted r)
  | none => if s.loaded then fetchExecute s else .refused .stepBeforeLoad

/-- The driver takes its turn, then the core makes one step. -/
def turnAndCycle (s : State) : Host.Outcome State Fault Refusal := cycle s.takeTurn

/-! ## The seven operations (00_scope R7, 60_exceptions R185) -/

/-- One operation of the core's interface. -/
inductive DriverOp where
  | reset (p : Params)
  | load (bytes : List Byte)
  | step (input : StepInput)
  | timer (op : TimerOp)
  | readTimer (which : Timer)
  deriving DecidableEq, Repr

/-- The operation's effect on the state, in the only admitted order (R185, R198; log entries 12 and 30). What
`read_timer` returns is State.readTimer. -/
def perform (op : DriverOp) (s : State) : Host.Outcome State Fault Refusal :=
  match op with
  | .reset p => .next (State.resetWith p)
  | .load bytes => load bytes s
  | .step input => cycle { s with input := input, turns := s.turns + 1 }
  | .timer op => if s.loaded then .next (s.timerOp op) else .refused .timerBeforeLoad
  | .readTimer _ => if s.loaded then .next s else .refused .timerBeforeLoad

/-! ## Placing an instruction -/

/-- The instruction's bytes stored where the next fetch reads them (when `pc` is a place a fetch can read: R33), and the
load they stand for done (log entry 13). -/
def State.placeInstruction (s : State) (bs : List Byte) : State :=
  { s with
    mem := if inMemory (s.pc.toNat + 1) then s.mem.writeBytes s.pc.toNat bs else s.mem
    loaded := true }

end Sys2Proof.Machine
end

