-- ==== Sys2Proof/Machine/Step.lean ====
section
/-! DEFINITION. One step of the machine, and the instruction placed where the next step fetches. -/

namespace Sys2Proof.Machine

/-- One turn of the driver and the one fetch-decode-execute step it invokes (30_encoding R52, 60_exceptions R185). -/
def step (s : State) : Host.Outcome State Fault Refusal := turnAndCycle s

/-- `s` with the instruction whose bits are `w` stored where the next step fetches. -/
def State.withFetchWord (s : State) (nbits w : Nat) : State := s.placeInstruction (tableBytes nbits w)

end Sys2Proof.Machine
end

