-- ==== Sys2Proof/Safety.lean ====
section
/-! DEFINITION. The terms claims use: the invariant of the machine, a halted and a finished core, and frames (what two
states agree on). -/

namespace Sys2Proof.Machine

/-! ## The invariant -/

/-- The call stack respects `STACK_DEPTH`, which is at least 1 when it is a number (00_scope R5, 10_state R15). -/
def State.stackOk (s : State) : Bool :=
  match s.stackDepth with
  | .bounded n => 1 ≤ n && s.stack.length ≤ n
  | .unbounded => true

/-- Every entry of the call stack is `a' + 2` for the address `a'` of a call that was fetched (40_control_transfer R70,
R72). -/
def State.returnsOk (s : State) : Bool := s.stack.all fun w => 2 ≤ w.toNat && w.toNat ≤ 0x1000

/-- A latched fault names the address `pc` still holds (60_exceptions R166, R167). -/
def State.latchOk (s : State) : Bool :=
  match s.fault with
  | some r => r.atPc == s.pc
  | none => true

/-- What every operation of the driver keeps: the memory's canonical form, the stack's depth and its entries, the bound
of 20_memory R37 on `pc`, and the latch's address. -/
def State.Inv (s : State) : Prop :=
  s.mem.wf = true ∧ s.stackOk = true ∧ s.returnsOk = true ∧ s.pc.toNat ≤ 0x10FE ∧ s.latchOk = true

/-! ## Halted and finished -/

/-- The core is halted: the latch is set (60_exceptions R167). A halted core is never finished. -/
def State.Halted (s : State) : Prop := s.fault.isSome = true

/-- The core can make a step that fetches: not halted, loaded, and `pc` a place a fetch can read (R52, R33, R198). -/
def State.Ready (s : State) : Prop := s.fault = none ∧ s.loaded = true ∧ s.pc.toNat ≤ 0x0FFE

/-- `pc = e` and `memory[e .. e+1]` hold the word `0x1000 | e` (70_reset_and_hazards R204). -/
def State.Finished (s : State) : Prop :=
  s.Ready ∧ s.fetchWord = some (BitVec.ofNat 16 (0x1000 + s.pc.toNat))

/-! ## Frames -/

/-- The two states agree on everything but the general registers, `pc` and the step's output; every byte of memory reads
the same. -/
def OnlyRegsAndPc (s t : State) : Prop :=
  t = { s with v := t.v, pc := t.pc, redraw := t.redraw } ∧ ∀ a, t.mem.read a = s.mem.read a

/-- The registers outside `ws` hold what they held. -/
def RegsKept (ws : List RegNum) (s t : State) : Prop := ∀ k, k ∉ ws → t.readV k = s.readV k

/-- The instruction completed with `pc = a + 2` and no redraw asked for (10_state R14, 43_display R133). -/
def AdvancedQuietly (s t : State) : Prop := t.pc = s.pc + 2 ∧ t.redraw = some false

/-! ## What the spec's tables say of an instruction -/

/-- The word whose value is `n` decodes to `i`. -/
abbrev Decodes (n : Nat) (i : Instr) : Prop := decodeWord (BitVec.ofNat 16 n) = .ok i

/-- The latch's record when `s` is the state at the start of the faulting step (10_state R22). -/
def State.faulted (s : State) (cause : FaultCause) (word : Word) (info : Nat) : State :=
  { s with fault := some { cause := cause, atPc := s.pc, word := word, info := info }, redraw := none }

end Sys2Proof.Machine

namespace Sys2Proof

open Sys2Proof.Machine

/-- The general registers an instruction writes as its ordinary destination (10_state R10): `V[X]`, and `V[0]` to `V[X]`
for FX65. -/
def Instr.writesReg (i : Instr) (k : RegNum) : Bool :=
  match i with
  | .op6XNN x _ | .op7XNN x _ | .opCXNN x _ => k == x
  | .op8XY0 x _ | .op8XY1 x _ | .op8XY2 x _ | .op8XY3 x _ | .op8XY4 x _ | .op8XY5 x _ | .op8XY6 x _
  | .op8XY7 x _ | .op8XYE x _ => k == x
  | .opFX07 x | .opFX0A x => k == x
  | .opFX65 x => k.val ≤ x.val
  | .op00E0 | .op00EE | .op1NNN _ | .op2NNN _ | .op3XNN _ _ | .op4XNN _ _ | .op5XY0 _ _ | .op9XY0 _ _ | .opANNN _
  | .opBNNN _ | .opDXYN _ _ _ | .opEX9E _ | .opEXA1 _ | .opFX15 _ | .opFX18 _ | .opFX1E _ | .opFX29 _ | .opFX33 _
  | .opFX55 _ => false

/-- The instructions that write VF as a flag (10_state R11): 8XY4 to 8XY7, 8XYE, DXYN, and FX1E when
`Q.add_to_i_sets_flag` (bit 3) is 0. -/
def Instr.producesFlag (i : Instr) (s : State) : Bool :=
  match i with
  | .op8XY4 _ _ | .op8XY5 _ _ | .op8XY6 _ _ | .op8XY7 _ _ | .op8XYE _ _ | .opDXYN _ _ _ => true
  | .opFX1E _ => !s.q.getLsbD 3
  | .op00E0 | .op00EE | .op1NNN _ | .op2NNN _ | .op3XNN _ _ | .op4XNN _ _ | .op5XY0 _ _ | .op6XNN _ _ | .op7XNN _ _
  | .op8XY0 _ _ | .op8XY1 _ _ | .op8XY2 _ _ | .op8XY3 _ _ | .op9XY0 _ _ | .opANNN _ | .opBNNN _ | .opCXNN _ _
  | .opEX9E _ | .opEXA1 _ | .opFX07 _ | .opFX0A _ | .opFX15 _ | .opFX18 _ | .opFX29 _ | .opFX33 _ | .opFX55 _
  | .opFX65 _ => false

/-- The number of data bytes an instruction reads or writes from `I` on (20_memory R39). -/
def Instr.dataCount : Instr → Nat
  | .opDXYN _ _ n => n
  | .opFX33 _ => 3
  | .opFX55 x | .opFX65 x => x.val + 1
  | .op00E0 | .op00EE | .op1NNN _ | .op2NNN _ | .op3XNN _ _ | .op4XNN _ _ | .op5XY0 _ _ | .op6XNN _ _ | .op7XNN _ _
  | .op8XY0 _ _ | .op8XY1 _ _ | .op8XY2 _ _ | .op8XY3 _ _ | .op8XY4 _ _ | .op8XY5 _ _ | .op8XY6 _ _ | .op8XY7 _ _
  | .op8XYE _ _ | .op9XY0 _ _ | .opANNN _ | .opBNNN _ | .opCXNN _ _ | .opEX9E _ | .opEXA1 _ | .opFX07 _ | .opFX0A _
  | .opFX15 _ | .opFX18 _ | .opFX1E _ | .opFX29 _ => 0

/-- The two instructions that ask for a redraw (43_display R133). -/
def Instr.drawsOrClears : Instr → Bool
  | .op00E0 | .opDXYN _ _ _ => true
  | .op00EE | .op1NNN _ | .op2NNN _ | .op3XNN _ _ | .op4XNN _ _ | .op5XY0 _ _ | .op6XNN _ _ | .op7XNN _ _
  | .op8XY0 _ _ | .op8XY1 _ _ | .op8XY2 _ _ | .op8XY3 _ _ | .op8XY4 _ _ | .op8XY5 _ _ | .op8XY6 _ _ | .op8XY7 _ _
  | .op8XYE _ _ | .op9XY0 _ _ | .opANNN _ | .opBNNN _ | .opCXNN _ _ | .opEX9E _ | .opEXA1 _ | .opFX07 _ | .opFX0A _
  | .opFX15 _ | .opFX18 _ | .opFX1E _ | .opFX29 _ | .opFX33 _ | .opFX55 _ | .opFX65 _ => false

/-- The table of 10_state R14: `pc` after an instruction that completes, from the state at the start of its step. -/
def Instr.pcAfter (i : Instr) (s : State) : Word :=
  match i with
  | .op1NNN nnn | .op2NNN nnn => BitVec.ofNat 16 nnn.toNat
  | .op00EE => s.stack.getLastD 0
  | .opBNNN nnn =>
    BitVec.ofNat 16 nnn.toNat + BitVec.ofNat 16 (if s.q.getLsbD 2 then s.readV (addrX nnn) else s.readV 0).toNat
  | .op3XNN x nn => if s.readV x = nn then s.pc + 4 else s.pc + 2
  | .op4XNN x nn => if s.readV x ≠ nn then s.pc + 4 else s.pc + 2
  | .op5XY0 x y => if s.readV x = s.readV y then s.pc + 4 else s.pc + 2
  | .op9XY0 x y => if s.readV x ≠ s.readV y then s.pc + 4 else s.pc + 2
  | .opEX9E x => if s.input.keys.getLsbD (s.readV x).toNat = true then s.pc + 4 else s.pc + 2
  | .opEXA1 x => if s.input.keys.getLsbD (s.readV x).toNat = false then s.pc + 4 else s.pc + 2
  | .opFX0A _ => if s.input.released = none then s.pc else s.pc + 2
  | .op00E0 | .op6XNN _ _ | .op7XNN _ _ | .op8XY0 _ _ | .op8XY1 _ _ | .op8XY2 _ _ | .op8XY3 _ _ | .op8XY4 _ _
  | .op8XY5 _ _ | .op8XY6 _ _ | .op8XY7 _ _ | .op8XYE _ _ | .opANNN _ | .opCXNN _ _ | .opDXYN _ _ _ | .opFX07 _
  | .opFX15 _ | .opFX18 _ | .opFX1E _ | .opFX29 _ | .opFX33 _ | .opFX55 _ | .opFX65 _ => s.pc + 2

/-- The two inputs agree on what the instruction samples: `rnd` for CXNN (41_register_alu R101), `keys` for EX9E and EXA1,
`released` for FX0A (44_keypad_timers R148), nothing for the others. -/
def Instr.sameInput (i : Instr) (a b : StepInput) : Prop :=
  match i with
  | .opCXNN _ _ => a.rnd = b.rnd
  | .opEX9E _ | .opEXA1 _ => a.keys = b.keys
  | .opFX0A _ => a.released = b.released
  | .op00E0 | .op00EE | .op1NNN _ | .op2NNN _ | .op3XNN _ _ | .op4XNN _ _ | .op5XY0 _ _ | .op6XNN _ _ | .op7XNN _ _
  | .op8XY0 _ _ | .op8XY1 _ _ | .op8XY2 _ _ | .op8XY3 _ _ | .op8XY4 _ _ | .op8XY5 _ _ | .op8XY6 _ _ | .op8XY7 _ _
  | .op8XYE _ _ | .op9XY0 _ _ | .opANNN _ | .opBNNN _ | .opDXYN _ _ _ | .opFX07 _ | .opFX15 _ | .opFX18 _ | .opFX1E _
  | .opFX29 _ | .opFX33 _ | .opFX55 _ | .opFX65 _ => True

/-- The two settings of `Q` agree on the bit the instruction depends on (10_state R21, 30_encoding R50). -/
def Instr.sameQuirk (i : Instr) (a b : BitVec 6) : Prop :=
  match i with
  | .op8XY6 _ _ | .op8XYE _ _ => a.getLsbD 0 = b.getLsbD 0
  | .opFX55 _ | .opFX65 _ => a.getLsbD 1 = b.getLsbD 1
  | .opBNNN _ => a.getLsbD 2 = b.getLsbD 2
  | .opFX1E _ => a.getLsbD 3 = b.getLsbD 3
  | .op00E0 | .op00EE | .op1NNN _ | .op2NNN _ | .op3XNN _ _ | .op4XNN _ _ | .op5XY0 _ _ | .op6XNN _ _ | .op7XNN _ _
  | .op8XY0 _ _ | .op8XY1 _ _ | .op8XY2 _ _ | .op8XY3 _ _ | .op8XY4 _ _ | .op8XY5 _ _ | .op8XY7 _ _ | .op9XY0 _ _
  | .opANNN _ | .opCXNN _ _ | .opDXYN _ _ _ | .opEX9E _ | .opEXA1 _ | .opFX07 _ | .opFX0A _ | .opFX15 _ | .opFX18 _
  | .opFX29 _ | .opFX33 _ => True

end Sys2Proof

namespace Sys2Proof.Machine

/-- Whether DXYN's sprite of `n` rows has an unclipped 1 bit at the display position `(px, py)`: row `py - y0`, column
`px - x0`, bit 7 the leftmost (43_display R129, R130). -/
def State.spriteHas (s : State) (x y : RegNum) (n : Nat) (px : Fin 64) (py : Fin 32) : Bool :=
  let x0 := (s.readV x).toNat % 64
  let y0 := (s.readV y).toNat % 32
  (x0 ≤ px.val && px.val < x0 + 8) && (y0 ≤ py.val && py.val < y0 + n) &&
    (s.mem.read (s.i.toNat + (py.val - y0))).getLsbD (7 - (px.val - x0))

/-- The `count` bytes from `I` on are all memory addresses (20_memory R40, 42_index_memory R117). -/
def State.InRange (s : State) (count : Nat) : Prop := ∀ k, k < count → s.i.toNat + k ≤ 0x0FFF

end Sys2Proof.Machine
end

