-- ==== Sys2Proof/Certificates/Slice0/Obligations.lean ====
section
/-! DEFINITION. The statements for the provers. A fault is raised as a next state with the latch set (log entry 1: the form
of the answer is the model's, what the latch holds is the spec's). Every statement about `exec` starts from the state at
the start of the step, so `s.pc` is the address `a` the instruction was fetched from. -/

open Sys2Proof Sys2Proof.Machine

/-! ## Encoding (30_encoding) -/

/-- Decoding an encoded well-formed instruction gives it back, every operand at every value (R50, R51, R54, R55), as a
word and as bytes. -/
def Obligations.DecodeInvertsEncode : Prop :=
  ∀ i : Instr, i.wellFormed = true →
    decodeWord (encode i) = .ok i ∧ ∀ rest, decode (encodeBytes i ++ rest) = .ok (i, rest)

/-- Encoding a decoded instruction gives its word back, and only well-formed instructions are decoded (R51, R57). -/
def Obligations.EncodeInvertsDecode : Prop :=
  ∀ (w : Word) (i : Instr), decodeWord w = .ok i → encode i = w ∧ i.wellFormed = true

/-- The decoder and the table of R55 agree: 34 rows, no two overlap, and a word decodes to an instruction of a row's name
iff `op & mask = match`. -/
def Obligations.DecodeSelectsTheTableRow : Prop :=
  opcodeTable.length = 34 ∧
  (∀ r ∈ opcodeTable, ∀ r' ∈ opcodeTable, ∀ w, r.selects w = true → r'.selects w = true → r = r') ∧
  ∀ (w : Word), ∀ r ∈ opcodeTable, (r.selects w = true ↔ ∃ i, decodeWord w = .ok i ∧ i.name = r.name)

/-- R56, the decision tree: which words of each first nibble are illegal; every other word decodes. -/
def Obligations.IllegalWordsAreThoseOfTheTree : Prop :=
  ∀ w : Word,
    ((∃ e, decodeWord w = .error e) ↔
      (w.toNat / 0x1000 = 0x0 ∧ w.toNat ≠ 0x00E0 ∧ w.toNat ≠ 0x00EE) ∨
      (w.toNat / 0x1000 = 0x5 ∧ w.toNat % 0x10 ≠ 0) ∨
      (w.toNat / 0x1000 = 0x8 ∧ w.toNat % 0x10 ∉ [0, 1, 2, 3, 4, 5, 6, 7, 0xE]) ∨
      (w.toNat / 0x1000 = 0x9 ∧ w.toNat % 0x10 ≠ 0) ∨
      (w.toNat / 0x1000 = 0xE ∧ w.toNat % 0x100 ∉ [0x9E, 0xA1]) ∨
      (w.toNat / 0x1000 = 0xF ∧ w.toNat % 0x100 ∉ [0x07, 0x0A, 0x15, 0x18, 0x1E, 0x29, 0x33, 0x55, 0x65])) ∧
    ∀ e, decodeWord w = .error e → e = .illegal w

/-- Words written out from the spec's encodings, one or more of every family. -/
def Obligations.SpecWordsDecodeToTheirInstructions : Prop :=
  decodeWord 0x00E0 = .ok .op00E0 ∧ decodeWord 0x00EE = .ok .op00EE ∧
  decodeWord 0x1ABC = .ok (.op1NNN 0xABC) ∧ decodeWord 0x2ABC = .ok (.op2NNN 0xABC) ∧
  decodeWord 0x3A12 = .ok (.op3XNN 10 0x12) ∧ decodeWord 0x5AB0 = .ok (.op5XY0 10 11) ∧
  decodeWord 0x6A12 = .ok (.op6XNN 10 0x12) ∧ decodeWord 0x8124 = .ok (.op8XY4 1 2) ∧
  decodeWord 0x812E = .ok (.op8XYE 1 2) ∧ decodeWord 0xA2F0 = .ok (.opANNN 0x2F0) ∧
  decodeWord 0xC30F = .ok (.opCXNN 3 0x0F) ∧ decodeWord 0xD7A3 = .ok (.opDXYN 7 10 3) ∧
  decodeWord 0xE59E = .ok (.opEX9E 5) ∧ decodeWord 0xF333 = .ok (.opFX33 3)

/-! ## The step (30_encoding R52, 20_memory R33, 60_exceptions) -/

/-- When the core is ready and the bytes at `pc` decode to `i`, the step is `exec i` after the driver's turn; the turn
changes only the timers, the step's inputs and the model's bookkeeping of turns. -/
def Obligations.StepRunsTheDecodedInstruction : Prop :=
  ∀ (s : State) (i : Instr), s.Ready → i.wellFormed = true →
    decode [s.mem.read s.pc.toNat, s.mem.read (s.pc.toNat + 1)] = .ok (i, []) →
    step s = exec i s.takeTurn ∧
    s.takeTurn =
      { s with
        dt := (timerOpsOn s.nextTurn.timerOps (s.dt, s.st)).1, st := (timerOpsOn s.nextTurn.timerOps (s.dt, s.st)).2,
        input := s.nextTurn.input, pending := s.pending.tail, turns := s.turns + 1 }

/-- R33, R36: above 0x0FFE the fetch faults; otherwise the word is the two bytes at `pc` and `pc + 1`, big-endian, at an odd
address as at an even one. That the step changes, beside the latch, what the driver's turn `takeTurn` changes is the model's
choice (log entries 2 and 3). -/
def Obligations.FetchReadsTwoBytesOrFaults : Prop :=
  ∀ s : State,
    (0x0FFE < s.pc.toNat → s.fetchWord = none ∧
      (s.fault = none → s.loaded = true → step s = .next (s.takeTurn.faulted .fetchOutOfRange 0x0000 s.pc.toNat))) ∧
    (s.pc.toNat ≤ 0x0FFE → ∃ w, s.fetchWord = some w ∧
      w.toNat = (s.mem.read s.pc.toNat).toNat * 0x100 + (s.mem.read (s.pc.toNat + 1)).toNat)

/-- R161: a word outside the opcode table raises IllegalInstruction, code 1, before the counter is advanced and before
anything is written. That the step changes, beside the latch, what the driver's turn `takeTurn` changes is the model's
choice (log entries 2 and 3). -/
def Obligations.IllegalWordRaisesBeforeAnyWrite : Prop :=
  FaultCause.illegalInstruction.code = 1 ∧
  ∀ (s : State) (w : Word) (e : DecodeError), s.Ready → s.fetchWord = some w → decodeWord w = .error e →
    step s = .next (s.takeTurn.faulted .illegalInstruction w 0)

/-- R167: a halted core returns the recorded fault on every step and is not finished, the timers still work, and nothing
but `reset` changes the latch, so the first fault is the one kept. -/
def Obligations.HaltedCoreKeepsItsFault : Prop :=
  ∀ (s : State) (r : FaultRecord), s.fault = some r →
    step s = .fault (.halted r) ∧ ¬ s.Finished ∧
    (∀ input, perform (.step input) s = .fault (.halted r)) ∧
    (s.loaded = true → ∀ op, ∃ t, perform (.timer op) s = .next t ∧ t = { s with dt := t.dt, st := t.st } ∧
      (t.dt, t.st) = timerOpOn op (s.dt, s.st)) ∧
    (s.loaded = true → ∀ which, perform (.readTimer which) s = .next s) ∧
    (∀ op t, perform op s = .next t → t.fault = some r ∨ ∃ p, op = .reset p)

/-- R198: one successful load, then the steps and timer operations; a step before any load, a second successful load and a
load after the first step are refused. -/
def Obligations.OperationsOutOfOrderAreRefused : Prop :=
  (∀ s : State, s.loaded = false → s.fault = none → step s = .refused .stepBeforeLoad) ∧
  (∀ (s : State) (bytes : List Byte), s.loaded = true → perform (.load bytes) s = .refused .loadAfterLoad) ∧
  (∀ (s t : State) (bytes : List Byte), perform (.load bytes) s = .next t → s.loaded = false ∧ t.loaded = true) ∧
  (∀ s t : State, step s = .next t → s.loaded = true ∧ t.loaded = true) ∧
  (∀ s : State, s.loaded = true → (∀ r, step s ≠ .refused r) ∧ ∀ op, ∃ t, perform (.timer op) s = .next t)

/-! ## Control transfer (40_control_transfer) -/

/-- R70: 00EE pops the tail of the stack into `pc`; on an empty stack it raises StackUnderflow and changes nothing else. -/
def Obligations.ReturnPopsTheTail : Prop :=
  Decodes 0x00EE .op00EE ∧
  (∀ s : State, s.stack = [] → exec .op00EE s = .next (s.faulted .stackUnderflow 0x00EE 0)) ∧
  ∀ (s : State) (rest : List Word) (w : Word), s.stack = rest ++ [w] →
    exec .op00EE s = .next { s with pc := w, stack := rest, redraw := some false }

/-- R71 and R77: 1NNN goes to NNN; BNNN goes to NNN plus `V[0]`, or plus the register of NNN's top nibble when
`Q.jump_offset_uses_vx` is 1, unmasked and never wrapping. Nothing else changes. -/
def Obligations.JumpsReachTheirTargets : Prop :=
  ∀ (s : State) (nnn : Addr12),
    Decodes (0x1000 + nnn.toNat) (.op1NNN nnn) ∧ Decodes (0xB000 + nnn.toNat) (.opBNNN nnn) ∧
    (∃ t, exec (.op1NNN nnn) s = .next t ∧ t = { s with pc := t.pc, redraw := some false } ∧
      t.pc.toNat = nnn.toNat) ∧
    (∃ t, exec (.opBNNN nnn) s = .next t ∧ t = { s with pc := t.pc, redraw := some false } ∧
      t.pc.toNat = nnn.toNat + (if s.q.getLsbD 2 then s.readV (addrX nnn) else s.readV 0).toNat ∧
      t.pc.toNat ≤ 0x10FE ∧ (addrX nnn).val = nnn.toNat / 0x100)

/-- R72: 2NNN pushes the address of the following instruction and goes to NNN; on a full stack of a finite depth it raises
StackOverflow and changes nothing else. -/
def Obligations.CallPushesTheReturnAddress : Prop :=
  ∀ (s : State) (nnn : Addr12),
    Decodes (0x2000 + nnn.toNat) (.op2NNN nnn) ∧
    (s.stackDepth = .bounded s.stack.length →
      exec (.op2NNN nnn) s = .next (s.faulted .stackOverflow (BitVec.ofNat 16 (0x2000 + nnn.toNat)) 0)) ∧
    (s.stackDepth ≠ .bounded s.stack.length →
      exec (.op2NNN nnn) s = .next
        { s with pc := BitVec.ofNat 16 nnn.toNat, stack := s.stack ++ [s.pc + 2], redraw := some false }) ∧
    (s.pc.toNat ≤ 0x0FFE → (s.pc + 2).toNat ≤ 0x1000)

/-- R73 and R74: 3XNN and 4XNN skip exactly two bytes when `V[X]` equals, differs from, NN; nothing else changes. -/
def Obligations.ImmediateSkips : Prop :=
  ∀ (s : State) (x : RegNum) (nn : Byte),
    Decodes (0x3000 + 0x100 * x.val + nn.toNat) (.op3XNN x nn) ∧
    Decodes (0x4000 + 0x100 * x.val + nn.toNat) (.op4XNN x nn) ∧
    exec (.op3XNN x nn) s = .next
      { s with pc := if s.readV x = nn then s.pc + 4 else s.pc + 2, redraw := some false } ∧
    exec (.op4XNN x nn) s = .next
      { s with pc := if s.readV x = nn then s.pc + 2 else s.pc + 4, redraw := some false }

/-- R75 and R76: 5XY0 and 9XY0 skip exactly two bytes when `V[X]` equals, differs from, `V[Y]`; nothing else changes. -/
def Obligations.RegisterSkips : Prop :=
  ∀ (s : State) (x y : RegNum),
    Decodes (0x5000 + 0x100 * x.val + 0x10 * y.val) (.op5XY0 x y) ∧
    Decodes (0x9000 + 0x100 * x.val + 0x10 * y.val) (.op9XY0 x y) ∧
    exec (.op5XY0 x y) s = .next
      { s with pc := if s.readV x = s.readV y then s.pc + 4 else s.pc + 2, redraw := some false } ∧
    exec (.op9XY0 x y) s = .next
      { s with pc := if s.readV x = s.readV y then s.pc + 2 else s.pc + 4, redraw := some false }

/-- R80: a return that finds the stack as the call left it resumes after the call, with the stack as before the call; the
callee's registers, memory and everything else stand as the callee left them. -/
def Obligations.ReturnResumesAfterTheCall : Prop :=
  ∀ (s t u : State) (nnn : Addr12), exec (.op2NNN nnn) s = .next t → t.redraw = some false → u.stack = t.stack →
    exec .op00EE u = .next { u with pc := s.pc + 2, stack := s.stack, redraw := some false }

/-- R204: a finished program stays finished; a step changes nothing but the output and what the driver's turn `takeTurn`
changes, which is the model's choice (log entries 2 and 3). -/
def Obligations.FinishedProgramStaysFinished : Prop :=
  ∀ s : State, s.Finished →
    ¬ s.Halted ∧ step s = .next { s.takeTurn with redraw := some false } ∧
    ({ s.takeTurn with redraw := some false } : State).Finished

/-! ## Register loads and ALU (41_register_alu) -/

/-- R90 and R91: 6XNN loads NN, 7XNN adds it modulo 256 and writes no flag. -/
def Obligations.ImmediateLoadAndAdd : Prop :=
  ∀ (s : State) (x : RegNum) (nn : Byte),
    Decodes (0x6000 + 0x100 * x.val + nn.toNat) (.op6XNN x nn) ∧
    Decodes (0x7000 + 0x100 * x.val + nn.toNat) (.op7XNN x nn) ∧
    (∃ t, exec (.op6XNN x nn) s = .next t ∧ OnlyRegsAndPc s t ∧ AdvancedQuietly s t ∧ RegsKept [x] s t ∧
      t.readV x = nn) ∧
    (∃ t, exec (.op7XNN x nn) s = .next t ∧ OnlyRegsAndPc s t ∧ AdvancedQuietly s t ∧ RegsKept [x] s t ∧
      (t.readV x).toNat = ((s.readV x).toNat + nn.toNat) % 256)

/-- R92 to R95: copy, OR, AND, XOR into `V[X]`, bit by bit; no flag is written. -/
def Obligations.CopyAndLogic : Prop :=
  ∀ (s : State) (x y : RegNum),
    Decodes (0x8000 + 0x100 * x.val + 0x10 * y.val) (.op8XY0 x y) ∧
    Decodes (0x8001 + 0x100 * x.val + 0x10 * y.val) (.op8XY1 x y) ∧
    Decodes (0x8002 + 0x100 * x.val + 0x10 * y.val) (.op8XY2 x y) ∧
    Decodes (0x8003 + 0x100 * x.val + 0x10 * y.val) (.op8XY3 x y) ∧
    (∃ t, exec (.op8XY0 x y) s = .next t ∧ OnlyRegsAndPc s t ∧ AdvancedQuietly s t ∧ RegsKept [x] s t ∧
      t.readV x = s.readV y) ∧
    (∃ t, exec (.op8XY1 x y) s = .next t ∧ OnlyRegsAndPc s t ∧ AdvancedQuietly s t ∧ RegsKept [x] s t ∧
      ∀ k, k < 8 → (t.readV x).getLsbD k = ((s.readV x).getLsbD k || (s.readV y).getLsbD k)) ∧
    (∃ t, exec (.op8XY2 x y) s = .next t ∧ OnlyRegsAndPc s t ∧ AdvancedQuietly s t ∧ RegsKept [x] s t ∧
      ∀ k, k < 8 → (t.readV x).getLsbD k = ((s.readV x).getLsbD k && (s.readV y).getLsbD k)) ∧
    (∃ t, exec (.op8XY3 x y) s = .next t ∧ OnlyRegsAndPc s t ∧ AdvancedQuietly s t ∧ RegsKept [x] s t ∧
      ∀ k, k < 8 → (t.readV x).getLsbD k = ((s.readV x).getLsbD k ^^ (s.readV y).getLsbD k))

/-- R96: 8XY4 leaves the sum modulo 256 in `V[X]` and the carry in VF; when `X = 15` the carry is what stays. -/
def Obligations.AddWithCarry : Prop :=
  ∀ (s : State) (x y : RegNum),
    Decodes (0x8004 + 0x100 * x.val + 0x10 * y.val) (.op8XY4 x y) ∧
    ∃ t, exec (.op8XY4 x y) s = .next t ∧ OnlyRegsAndPc s t ∧ AdvancedQuietly s t ∧ RegsKept [x, 15] s t ∧
      (x ≠ 15 → (t.readV x).toNat = ((s.readV x).toNat + (s.readV y).toNat) % 256) ∧
      t.readV 15 = if 255 < (s.readV x).toNat + (s.readV y).toNat then 0x01 else 0x00

/-- R97 and R99: 8XY5 and 8XY7 leave the difference modulo 256 in `V[X]` and, in VF, 1 exactly when the minuend is
strictly greater. -/
def Obligations.SubtractWithStrictFlag : Prop :=
  ∀ (s : State) (x y : RegNum),
    Decodes (0x8005 + 0x100 * x.val + 0x10 * y.val) (.op8XY5 x y) ∧
    Decodes (0x8007 + 0x100 * x.val + 0x10 * y.val) (.op8XY7 x y) ∧
    (∃ t, exec (.op8XY5 x y) s = .next t ∧ OnlyRegsAndPc s t ∧ AdvancedQuietly s t ∧ RegsKept [x, 15] s t ∧
      (x ≠ 15 → (t.readV x).toNat = ((s.readV x).toNat + 256 - (s.readV y).toNat) % 256) ∧
      t.readV 15 = if (s.readV y).toNat < (s.readV x).toNat then 0x01 else 0x00) ∧
    (∃ t, exec (.op8XY7 x y) s = .next t ∧ OnlyRegsAndPc s t ∧ AdvancedQuietly s t ∧ RegsKept [x, 15] s t ∧
      (x ≠ 15 → (t.readV x).toNat = ((s.readV y).toNat + 256 - (s.readV x).toNat) % 256) ∧
      t.readV 15 = if (s.readV x).toNat < (s.readV y).toNat then 0x01 else 0x00)

/-- R98 and R100: the shifts by one bit with zero fill of `V[X]`, or of `V[Y]` when `Q.shift_uses_vy` is 1, and the bit
shifted out in VF. -/
def Obligations.ShiftsByOneBit : Prop :=
  ∀ (s : State) (x y : RegNum),
    Decodes (0x8006 + 0x100 * x.val + 0x10 * y.val) (.op8XY6 x y) ∧
    Decodes (0x800E + 0x100 * x.val + 0x10 * y.val) (.op8XYE x y) ∧
    (∃ t, exec (.op8XY6 x y) s = .next t ∧ OnlyRegsAndPc s t ∧ AdvancedQuietly s t ∧ RegsKept [x, 15] s t ∧
      (x ≠ 15 → (t.readV x).toNat = (if s.q.getLsbD 0 then s.readV y else s.readV x).toNat / 2) ∧
      (t.readV 15).toNat = (if s.q.getLsbD 0 then s.readV y else s.readV x).toNat % 2) ∧
    (∃ t, exec (.op8XYE x y) s = .next t ∧ OnlyRegsAndPc s t ∧ AdvancedQuietly s t ∧ RegsKept [x, 15] s t ∧
      (x ≠ 15 → (t.readV x).toNat = 2 * (if s.q.getLsbD 0 then s.readV y else s.readV x).toNat % 256) ∧
      (t.readV 15).toNat = (if s.q.getLsbD 0 then s.readV y else s.readV x).toNat / 128)

/-- R101: CXNN leaves the step's random byte masked with NN in `V[X]`; every other instruction ignores that byte. -/
def Obligations.MaskedRandomByte : Prop :=
  (∀ (s : State) (x : RegNum) (nn : Byte),
    Decodes (0xC000 + 0x100 * x.val + nn.toNat) (.opCXNN x nn) ∧
    ∃ t, exec (.opCXNN x nn) s = .next t ∧ OnlyRegsAndPc s t ∧ AdvancedQuietly s t ∧ RegsKept [x] s t ∧
      ∀ k, k < 8 → (t.readV x).getLsbD k = (s.input.rnd.getLsbD k && nn.getLsbD k)) ∧
  ∀ (i : Instr) (s t : State) (rnd : Byte), (∀ x nn, i ≠ .opCXNN x nn) → exec i s = .next t →
    exec i { s with input := { s.input with rnd := rnd } } = .next { t with input := { t.input with rnd := rnd } }

/-- The note under the subtract vectors: on the same operands 8XY5 and 8XY7 never both set VF, and both clear it exactly
when the operands are equal. -/
def Obligations.SubtractFlagsExcludeEachOther : Prop :=
  ∀ (s t u : State) (x y : RegNum), exec (.op8XY5 x y) s = .next t → exec (.op8XY7 x y) s = .next u →
    ¬ (t.readV 15 = 1 ∧ u.readV 15 = 1) ∧ (t.readV 15 = 0 ∧ u.readV 15 = 0 ↔ s.readV x = s.readV y)

/-! ## Address register and memory transfer (42_index_memory, 20_memory) -/

/-- R110 and R112: ANNN loads NNN into `I`; FX29 points `I` at the glyph of the low nibble of `V[X]`. -/
def Obligations.IndexLoads : Prop :=
  ∀ (s : State) (x : RegNum) (nnn : Addr12),
    Decodes (0xA000 + nnn.toNat) (.opANNN nnn) ∧ Decodes (0xF029 + 0x100 * x.val) (.opFX29 x) ∧
    (∃ t, exec (.opANNN nnn) s = .next t ∧ t = { s with i := t.i, pc := s.pc + 2, redraw := some false } ∧
      t.i.toNat = nnn.toNat) ∧
    (∃ t, exec (.opFX29 x) s = .next t ∧ t = { s with i := t.i, pc := s.pc + 2, redraw := some false } ∧
      t.i.toNat = 0x0050 + 5 * ((s.readV x).toNat % 16))

/-- R111: FX1E adds `V[X]` to `I` modulo 2^16; VF gets the overflow past 16 bits when `Q.add_to_i_sets_flag` is 0 and is
untouched when it is 1. -/
def Obligations.AddToIndex : Prop :=
  ∀ (s : State) (x : RegNum),
    Decodes (0xF01E + 0x100 * x.val) (.opFX1E x) ∧
    ∃ t, exec (.opFX1E x) s = .next t ∧ t = { s with v := t.v, i := t.i, pc := s.pc + 2, redraw := some false } ∧
      t.i.toNat = (s.i.toNat + (s.readV x).toNat) % 0x10000 ∧ RegsKept [15] s t ∧
      (s.q.getLsbD 3 = false →
        t.readV 15 = if 0xFFFF < s.i.toNat + (s.readV x).toNat then 0x01 else 0x00) ∧
      (s.q.getLsbD 3 = true → t.readV 15 = s.readV 15)

/-- R113: FX33 stores the three decimal digits of `V[X]` at `I`, `I + 1`, `I + 2` and changes no other byte; above 0x0FFD
it faults and stores nothing. The memory's canonical form is an invariant of the machine. -/
def Obligations.StoreDecimalDigits : Prop :=
  ∀ (s : State) (x : RegNum), s.mem.wf = true →
    Decodes (0xF033 + 0x100 * x.val) (.opFX33 x) ∧
    (0x0FFD < s.i.toNat → exec (.opFX33 x) s = .next
      (s.faulted .memoryOutOfRange (BitVec.ofNat 16 (0xF033 + 0x100 * x.val)) (max s.i.toNat 0x1000))) ∧
    (s.i.toNat ≤ 0x0FFD →
      ∃ t, exec (.opFX33 x) s = .next t ∧ t = { s with mem := t.mem, pc := s.pc + 2, redraw := some false } ∧
        (t.mem.read s.i.toNat).toNat = (s.readV x).toNat / 100 ∧
        (t.mem.read (s.i.toNat + 1)).toNat = (s.readV x).toNat / 10 % 10 ∧
        (t.mem.read (s.i.toNat + 2)).toNat = (s.readV x).toNat % 10 ∧
        ∀ a, (a < s.i.toNat ∨ s.i.toNat + 2 < a) → t.mem.read a = s.mem.read a)

/-- R114: FX55 stores `V[0]` to `V[X]` at ascending addresses from `I` and changes no other byte; `I` grows by the number
of registers when `Q.ldst_increments_i` is 1; out of range it faults and stores nothing. -/
def Obligations.StoreRegisters : Prop :=
  ∀ (s : State) (x : RegNum), s.mem.wf = true →
    Decodes (0xF055 + 0x100 * x.val) (.opFX55 x) ∧
    (0x0FFF < s.i.toNat + x.val → exec (.opFX55 x) s = .next
      (s.faulted .memoryOutOfRange (BitVec.ofNat 16 (0xF055 + 0x100 * x.val)) (max s.i.toNat 0x1000))) ∧
    (s.i.toNat + x.val ≤ 0x0FFF →
      ∃ t, exec (.opFX55 x) s = .next t ∧ t = { s with mem := t.mem, i := t.i, pc := s.pc + 2, redraw := some false } ∧
        t.i.toNat = s.i.toNat + (if s.q.getLsbD 1 then x.val + 1 else 0) ∧
        (∀ k : RegNum, k.val ≤ x.val → t.mem.read (s.i.toNat + k.val) = s.readV k) ∧
        ∀ a, (a < s.i.toNat ∨ s.i.toNat + x.val < a) → t.mem.read a = s.mem.read a)

/-- R115: FX65 loads `V[0]` to `V[X]` from ascending addresses from `I`; registers above `V[X]` are unchanged; `I` as in
FX55; out of range it faults and loads nothing. -/
def Obligations.LoadRegisters : Prop :=
  ∀ (s : State) (x : RegNum),
    Decodes (0xF065 + 0x100 * x.val) (.opFX65 x) ∧
    (0x0FFF < s.i.toNat + x.val → exec (.opFX65 x) s = .next
      (s.faulted .memoryOutOfRange (BitVec.ofNat 16 (0xF065 + 0x100 * x.val)) (max s.i.toNat 0x1000))) ∧
    (s.i.toNat + x.val ≤ 0x0FFF →
      ∃ t, exec (.opFX65 x) s = .next t ∧ t = { s with v := t.v, i := t.i, pc := s.pc + 2, redraw := some false } ∧
        t.i.toNat = s.i.toNat + (if s.q.getLsbD 1 then x.val + 1 else 0) ∧
        (∀ k : RegNum, k.val ≤ x.val → t.readV k = s.mem.read (s.i.toNat + k.val)) ∧
        (∀ k : RegNum, x.val < k.val → t.readV k = s.readV k) ∧
        ∀ a, t.mem.read a = s.mem.read a)

/-- The source's law S6: FX55 and then FX65 from the same `I` give `V[0]` to `V[X]` back, whatever the registers hold in
between. -/
def Obligations.StoreThenLoadGivesRegistersBack : Prop :=
  ∀ (s t : State) (x : RegNum) (v : Vector Byte 16), s.mem.wf = true → s.i.toNat + x.val ≤ 0x0FFF →
    exec (.opFX55 x) s = .next t →
    ∃ u, exec (.opFX65 x) { t with v := v, i := s.i } = .next u ∧ u.fault = s.fault ∧
      ∀ k : RegNum, k.val ≤ x.val → u.readV k = s.readV k

/-- R40: an instruction that reads or writes data bytes checks all of them first; if one lies above 0x0FFF it raises
MemoryOutOfRange with the smallest such address and changes nothing; if none does it raises no such fault. -/
def Obligations.DataRangeIsCheckedFirst : Prop :=
  ∀ (i : Instr) (s : State),
    (¬ s.InRange i.dataCount → ∃ ea, exec i s = .next (s.faulted .memoryOutOfRange (encode i) ea) ∧
      (∃ k, k < i.dataCount ∧ ea = s.i.toNat + k) ∧ 0x0FFF < ea ∧
      ∀ k, k < i.dataCount → 0x0FFF < s.i.toNat + k → ea ≤ s.i.toNat + k) ∧
    (s.InRange i.dataCount → ∀ word ea, exec i s ≠ .next (s.faulted .memoryOutOfRange word ea))

/-- R43: a fetch after a store reads the bytes stored, by FX55 and by FX33. -/
def Obligations.StoresAreSeenByTheFetch : Prop :=
  ∀ (s t : State) (x : RegNum), s.mem.wf = true →
    (exec (.opFX55 x) s = .next t → s.i.toNat + x.val ≤ 0x0FFF → ∀ k k' : RegNum, k'.val = k.val + 1 → k'.val ≤ x.val →
      ({ t with pc := BitVec.ofNat 16 (s.i.toNat + k.val) } : State).fetchWord =
        some (BitVec.ofNat 16 ((s.readV k).toNat * 0x100 + (s.readV k').toNat))) ∧
    (exec (.opFX33 x) s = .next t → s.i.toNat ≤ 0x0FFD →
      ({ t with pc := s.i } : State).fetchWord =
        some (BitVec.ofNat 16 ((s.readV x).toNat / 100 * 0x100 + (s.readV x).toNat / 10 % 10)))

/-! ## Display (43_display) -/

/-- R127: 00E0 turns every pixel off and asks for a redraw; VF and everything else is kept. -/
def Obligations.ClearTurnsEveryPixelOff : Prop :=
  Decodes 0x00E0 .op00E0 ∧
  ∀ s : State, ∃ t, exec .op00E0 s = .next t ∧
    t = { s with disp := t.disp, pc := s.pc + 2, redraw := some true } ∧ ∀ px py, t.disp.getPixel px py = false

/-- R128 to R131: DXYN XORs the unclipped sprite bits onto the display; VF is 1 exactly when a pixel was turned off; a
redraw is asked for; nothing else changes; out of range it faults and draws nothing. -/
def Obligations.DrawXorsTheSprite : Prop :=
  ∀ (s : State) (x y : RegNum) (n : Nat),
    (n < 16 → Decodes (0xD000 + 0x100 * x.val + 0x10 * y.val + n) (.opDXYN x y n)) ∧
    (¬ s.InRange n → exec (.opDXYN x y n) s =
      .next (s.faulted .memoryOutOfRange (encode (.opDXYN x y n)) (max s.i.toNat 0x1000))) ∧
    (s.InRange n →
      ∃ t, exec (.opDXYN x y n) s = .next t ∧
        t = { s with v := t.v, disp := t.disp, pc := s.pc + 2, redraw := some true } ∧ RegsKept [15] s t ∧
        (∀ px py, t.disp.getPixel px py = (s.disp.getPixel px py ^^ s.spriteHas x y n px py)) ∧
        ((∃ px py, s.disp.getPixel px py = true ∧ t.disp.getPixel px py = false) → t.readV 15 = 0x01) ∧
        (¬ (∃ px py, s.disp.getPixel px py = true ∧ t.disp.getPixel px py = false) → t.readV 15 = 0x00) ∧
        ∀ a, t.mem.read a = s.mem.read a)

/-- The source's law S5, made exact: drawing the same sprite twice at the same place gives the display back, and the second
draw collides when the sprite has an unclipped 1 bit over a pixel that was off before the first. -/
def Obligations.DrawingTwiceRestoresTheDisplay : Prop :=
  ∀ (s t u : State) (x y : RegNum) (n : Nat), x ≠ 15 → y ≠ 15 → s.InRange n →
    exec (.opDXYN x y n) s = .next t → exec (.opDXYN x y n) t = .next u →
    u.disp = s.disp ∧
    (u.readV 15 = 0x01 ↔ ∃ px py, s.spriteHas x y n px py = true ∧ s.disp.getPixel px py = false)

/-! ## Keypad and timers (44_keypad_timers, 60_exceptions) -/

/-- R140, R141, R147: the key skips; a key code above 15 raises KeyIndexOutOfRange and changes nothing else. -/
def Obligations.KeySkips : Prop :=
  ∀ (s : State) (x : RegNum),
    Decodes (0xE09E + 0x100 * x.val) (.opEX9E x) ∧ Decodes (0xE0A1 + 0x100 * x.val) (.opEXA1 x) ∧
    (15 < (s.readV x).toNat →
      exec (.opEX9E x) s = .next
        (s.faulted .keyIndexOutOfRange (BitVec.ofNat 16 (0xE09E + 0x100 * x.val)) (s.readV x).toNat) ∧
      exec (.opEXA1 x) s = .next
        (s.faulted .keyIndexOutOfRange (BitVec.ofNat 16 (0xE0A1 + 0x100 * x.val)) (s.readV x).toNat)) ∧
    ((s.readV x).toNat ≤ 15 →
      exec (.opEX9E x) s = .next
        { s with pc := if s.input.keys.getLsbD (s.readV x).toNat then s.pc + 4 else s.pc + 2, redraw := some false } ∧
      exec (.opEXA1 x) s = .next
        { s with pc := if s.input.keys.getLsbD (s.readV x).toNat then s.pc + 2 else s.pc + 4, redraw := some false })

/-- R144: with no released key FX0A leaves everything as it is, so the same instruction is fetched next; with one, its code
goes to `V[X]` and the counter moves on. -/
def Obligations.WaitForKeyRelease : Prop :=
  ∀ (s : State) (x : RegNum),
    Decodes (0xF00A + 0x100 * x.val) (.opFX0A x) ∧
    (s.input.released = none →
      exec (.opFX0A x) s = .next { s with redraw := some false } ∧
      ({ s with redraw := some false } : State).fetchWord = s.fetchWord) ∧
    (∀ key, s.input.released = some key →
      ∃ t, exec (.opFX0A x) s = .next t ∧ OnlyRegsAndPc s t ∧ AdvancedQuietly s t ∧ RegsKept [x] s t ∧
        (t.readV x).toNat = key.val)

/-- R142, R145: FX07 reads the delay timer, FX15 sets it to any byte, and no other instruction changes it. -/
def Obligations.DelayTimerInstructions : Prop :=
  (∀ (s : State) (x : RegNum),
    Decodes (0xF007 + 0x100 * x.val) (.opFX07 x) ∧ Decodes (0xF015 + 0x100 * x.val) (.opFX15 x) ∧
    (∃ t, exec (.opFX07 x) s = .next t ∧ OnlyRegsAndPc s t ∧ AdvancedQuietly s t ∧ RegsKept [x] s t ∧
      t.readV x = s.dt) ∧
    exec (.opFX15 x) s = .next { s with dt := s.readV x, pc := s.pc + 2, redraw := some false }) ∧
  ∀ (i : Instr) (s t : State), exec i s = .next t → t.dt ≠ s.dt → ∃ x, i = .opFX15 x

/-- R146: FX18 sets the sound timer, and no instruction reads it: whatever it holds, the effect of every other instruction
is the same. -/
def Obligations.SoundTimerIsSetAndNeverRead : Prop :=
  (∀ (s : State) (x : RegNum),
    Decodes (0xF018 + 0x100 * x.val) (.opFX18 x) ∧
    exec (.opFX18 x) s = .next { s with st := s.readV x, pc := s.pc + 2, redraw := some false }) ∧
  ∀ (i : Instr) (s t : State) (b : Byte), (∀ x, i ≠ .opFX18 x) → exec i s = .next t →
    exec i { s with st := b } = .next { t with st := b }

/-- R176, R177, R178: the ticks count one timer down and stop at zero; a write sets one timer, a read gives it back;
nothing else changes. -/
def Obligations.TimerTicksSaturate : Prop :=
  ∀ s : State, s.loaded = true →
    (∃ t, perform (.timer .tickDelay) s = .next t ∧ t = { s with dt := t.dt } ∧ t.dt.toNat = s.dt.toNat - 1) ∧
    (∃ t, perform (.timer .tickSound) s = .next t ∧ t = { s with st := t.st } ∧ t.st.toNat = s.st.toNat - 1) ∧
    ∀ b : Byte,
      perform (.timer (.writeTimer .delay b)) s = .next { s with dt := b } ∧
      perform (.timer (.writeTimer .sound b)) s = .next { s with st := b } ∧
      s.readTimer .delay = s.dt ∧ s.readTimer .sound = s.st

/-- R148: an instruction's effect depends on nothing of the step's inputs but what it samples, and a later step does not
look at the inputs an earlier one left in the state. -/
def Obligations.InputsReachOnlyTheirInstructions : Prop :=
  (∀ (i : Instr) (s t : State) (input : StepInput), i.sameInput s.input input → exec i s = .next t →
    exec i { s with input := input } = .next { t with input := input }) ∧
  ∀ (s : State) (old : StepInput),
    step { s with input := old } = step s ∧
    ∀ input, perform (.step input) { s with input := old } = perform (.step input) s

/-! ## The whole machine -/

/-- R21: a quirk bit changes only what its instructions do; the two unnamed bits change nothing at all. -/
def Obligations.QuirkBitsReachOnlyTheirInstructions : Prop :=
  ∀ (i : Instr) (s t : State) (q : BitVec 6), i.sameQuirk s.q q → exec i s = .next t →
    exec i { s with q := q } = .next { t with q := q }

/-- R10, R11, R105: a register changes only as an instruction's ordinary destination, or as VF written by a
flag-producing instruction. -/
def Obligations.RegistersChangeOnlyWhereNamed : Prop :=
  ∀ (i : Instr) (s t : State) (k : RegNum), exec i s = .next t → t.readV k ≠ s.readV k →
    i.writesReg k = true ∨ (k = 15 ∧ i.producesFlag s = true)

/-- R11, R104: a flag-producing instruction that completes leaves 0x00 or 0x01 in VF, and nothing else. -/
def Obligations.FlagsAreZeroOrOne : Prop :=
  ∀ (i : Instr) (s t : State), i.producesFlag s = true → exec i s = .next t → t.redraw ≠ none →
    t.readV 15 = 0x00 ∨ t.readV 15 = 0x01

/-- R12, R15, R18, R19, R39 and R126: which instructions may change `I`, the stack, the timers, memory and the display. -/
def Obligations.StateIsWrittenOnlyByItsInstructions : Prop :=
  ∀ (i : Instr) (s t : State), exec i s = .next t →
    (t.i ≠ s.i → (∃ nnn, i = .opANNN nnn) ∨ ∃ x, i = .opFX1E x ∨ i = .opFX29 x ∨
      ((i = .opFX55 x ∨ i = .opFX65 x) ∧ s.q.getLsbD 1 = true)) ∧
    (t.stack ≠ s.stack → i = .op00EE ∨ ∃ nnn, i = .op2NNN nnn) ∧
    (t.dt ≠ s.dt → ∃ x, i = .opFX15 x) ∧
    (t.st ≠ s.st → ∃ x, i = .opFX18 x) ∧
    (t.mem ≠ s.mem → ∃ x, i = .opFX33 x ∨ i = .opFX55 x) ∧
    (t.disp ≠ s.disp → i = .op00E0 ∨ ∃ x y n, i = .opDXYN x y n)

/-- R14: how every instruction leaves `pc`, and that a step that faults leaves it where it was. -/
def Obligations.PcFollowsItsTable : Prop :=
  (∀ (i : Instr) (s t : State), exec i s = .next t →
    (t.redraw ≠ none → t.pc = i.pcAfter s) ∧ (t.redraw = none → t.pc = s.pc)) ∧
  ∀ s t : State, step s = .next t → t.redraw = none → t.pc = s.pc

/-- Every instruction answers a next state from every state: it completes, or it raises its fault into the latch. -/
def Obligations.EveryInstructionAnswersANextState : Prop :=
  ∀ (i : Instr) (s : State), ∃ t, exec i s = .next t ∧ (t.redraw = none → t.fault ≠ none)

/-- R133: a step's output is 1 exactly for 00E0 and DXYN, 0 for every other instruction, and absent on a fault. -/
def Obligations.RedrawIsAskedForByDisplayInstructions : Prop :=
  ∀ (i : Instr) (s t : State), exec i s = .next t →
    (t.redraw = some i.drawsOrClears ∧ t.fault = s.fault) ∨ (t.redraw = none ∧ t.fault ≠ none)

/-- R166: a step that raises a fault changes nothing but the latch, and the record names the address `pc` still holds; that
the state before it is the one after the driver's turn `takeTurn` is the model's choice (log entries 2 and 3). -/
def Obligations.FaultingStepIsVoid : Prop :=
  ∀ s t : State, step s = .next t → t.redraw = none →
    ∃ r, t = { s.takeTurn with fault := some r, redraw := none } ∧ r.atPc = s.pc ∧ t.pc = s.pc

/-- R160 and R170: an instruction raises only its own execute-time fault, on its own condition, with the record of the
table. -/
def Obligations.FaultsHaveTheirCauses : Prop :=
  [FaultCause.illegalInstruction, .stackUnderflow, .loadError, .stackOverflow, .fetchOutOfRange, .memoryOutOfRange,
    .keyIndexOutOfRange].map FaultCause.code = [1, 2, 3, 4, 5, 6, 7] ∧
  ∀ (i : Instr) (s t : State), exec i s = .next t → t.redraw = none →
    ∃ r, t.fault = some r ∧ r.atPc = s.pc ∧ r.word = encode i ∧
      ((r.cause = .stackUnderflow ∧ i = .op00EE ∧ s.stack = [] ∧ r.info = 0) ∨
       (r.cause = .stackOverflow ∧ (∃ nnn, i = .op2NNN nnn) ∧ s.stackDepth = .bounded s.stack.length ∧ r.info = 0) ∨
       (r.cause = .memoryOutOfRange ∧ ¬ s.InRange i.dataCount ∧ r.info = max s.i.toNat 0x1000) ∨
       (r.cause = .keyIndexOutOfRange ∧ ∃ x, (i = .opEX9E x ∨ i = .opEXA1 x) ∧ 15 < (s.readV x).toNat ∧
         r.info = (s.readV x).toNat))

/-- R21 and R5: `Q`, `STACK_DEPTH` and the load are fixed for the session: no step and no timer operation changes them. -/
def Obligations.ConfigurationIsFixed : Prop :=
  (∀ s t : State, step s = .next t → t.q = s.q ∧ t.stackDepth = s.stackDepth ∧ t.loaded = s.loaded) ∧
  ∀ (op : DriverOp) (s t : State), perform op s = .next t → (∀ p, op ≠ .reset p) →
    t.q = s.q ∧ t.stackDepth = s.stackDepth

/-! ## Reset, load, invariant (70_reset_and_hazards) -/

/-- R190 and R192: the state after `reset`, from every state before it, a halted one among them, and for every value of the
open parameters; the display holds its own start value. -/
def Obligations.ResetLeavesTheResetState : Prop :=
  ∀ (s : State) (p : Params), ∃ t, perform (.reset p) s = .next t ∧
    (∀ k, t.readV k = 0x00) ∧ t.i = 0x0000 ∧ t.pc = 0x0200 ∧ t.stack = [] ∧ t.dt = 0x00 ∧
    t.st = p.soundTimerReset ∧ (p.valid = true → t.st ≠ 0x00) ∧
    (∀ k : Fin 80, t.mem.read (0x050 + k.val) = p.font[k]) ∧
    (∀ a, (a < 0x050 ∨ 0x09F < a) → t.mem.read a = 0x00) ∧
    t.q = p.q ∧ t.fault = none ∧ t.disp = p.displayInit

/-- R197: `load` places the bytes from 0x200 on and changes nothing else, or refuses an over-long program whole. -/
def Obligations.LoadPlacesTheProgram : Prop :=
  ∀ (s : State) (bytes : List Byte), s.loaded = false → s.mem.wf = true →
    (3584 < bytes.length → perform (.load bytes) s = .fault .loadError) ∧
    (bytes.length ≤ 3584 → ∃ t, perform (.load bytes) s = .next t ∧ t = { s with mem := t.mem, loaded := true } ∧
      (∀ k, k < bytes.length → t.mem.read (0x200 + k) = bytes.getD k 0) ∧
      ∀ a, (a < 0x200 ∨ 0x200 + bytes.length ≤ a) → t.mem.read a = s.mem.read a)

/-- The invariant holds at State.reset, whose open parameters are the model's choice (log entries 5 to 9). -/
def Obligations.ResetMeetsTheInvariant : Prop := State.reset.Inv

/-- From every state that meets the invariant a step gives a state that meets it: the memory keeps its canonical form, the
stack its depth and its entries, `pc` the bound of R37, the latch the address `pc` holds. -/
def Obligations.StepKeepsTheInvariant : Prop :=
  ∀ s t : State, s.Inv → step s = .next t → t.Inv

/-- Every operation of the driver keeps the invariant, `reset` with any valid parameters among them. -/
def Obligations.DriverOperationsKeepTheInvariant : Prop :=
  ∀ (op : DriverOp) (s t : State), (∀ p, op = .reset p → p.valid = true) → s.Inv → perform op s = .next t → t.Inv

/-- R191: after `reset`, from every state before it, a new load is required. The bit `loaded` and the field `stackDepth` that
say so are the model's (log entries 12 and 5). -/
def Obligations.ResetAsksForANewLoad : Prop :=
  ∀ (s : State) (p : Params), ∃ t, perform (.reset p) s = .next t ∧
    t.loaded = false ∧ t.stackDepth = p.stackDepth ∧
    step t = .refused .stepBeforeLoad ∧ (∀ input, perform (.step input) t = .refused .stepBeforeLoad) ∧
    ∀ bytes : List Byte, bytes.length ≤ 3584 → ∃ u, perform (.load bytes) t = .next u ∧ u.loaded = true

/-- Before the load every tick, timer write and timer read is refused; that it is refused is the model's reading of the only
admitted order (log entry 30). -/
def Obligations.TimerOperationsWaitForTheLoad : Prop :=
  ∀ s : State, s.loaded = false →
    (∀ op, perform (.timer op) s = .refused .timerBeforeLoad) ∧
    ∀ which, perform (.readTimer which) s = .refused .timerBeforeLoad
end

