-- ==== Sys2Proof/Laws/Decode.lean ====
section
/-! SUPPORT. The encoding forms as numbers, and the fields read back from them. -/

namespace Sys2Proof

theorem formA_toNat {k : Nat} (hk : k < 16) (nnn : Addr12) : (formA k nnn).toNat = k * 0x1000 + nnn.toNat := by
  have := nnn.isLt
  simp only [formA, BitVec.toNat_ofNat]
  omega

theorem formXI_toNat {k : Nat} (hk : k < 16) (x : RegNum) (nn : Byte) :
    (formXI k x nn).toNat = k * 0x1000 + x.val * 0x100 + nn.toNat := by
  have := nn.isLt
  have := x.isLt
  simp only [formXI, BitVec.toNat_ofNat]
  omega

theorem formXY_toNat {k j : Nat} (hk : k < 16) (hj : j < 16) (x y : RegNum) :
    (formXY k x y j).toNat = k * 0x1000 + x.val * 0x100 + y.val * 0x10 + j := by
  have := x.isLt
  have := y.isLt
  simp only [formXY, BitVec.toNat_ofNat]
  omega

theorem formXF_toNat {k jj : Nat} (hk : k < 16) (hj : jj < 256) (x : RegNum) :
    (formXF k x jj).toNat = k * 0x1000 + x.val * 0x100 + jj := by
  have := x.isLt
  simp only [formXF, BitVec.toNat_ofNat]
  omega

@[simp] theorem fieldX_val (w : Word) : (fieldX w).val = w.toNat / 0x100 % 0x10 := rfl

@[simp] theorem fieldY_val (w : Word) : (fieldY w).val = w.toNat / 0x10 % 0x10 := rfl

@[simp] theorem fieldNN_toNat (w : Word) : (fieldNN w).toNat = w.toNat % 0x100 := by
  simp [fieldNN]

@[simp] theorem fieldNNN_toNat (w : Word) : (fieldNNN w).toNat = w.toNat % 0x1000 := by
  simp [fieldNNN]

/-- The two bytes of a word put together are the word. -/
theorem concatBytes_highByte_lowByte (w : Word) : concatBytes (highByte w) (lowByte w) = w := by
  have := w.isLt
  apply BitVec.eq_of_toNat_eq
  simp only [concatBytes, highByte, lowByte, BitVec.toNat_ofNat]
  omega

/-- The word of two bytes as a number: big-endian (R34). -/
theorem concatBytes_toNat (hi lo : Byte) : (concatBytes hi lo).toNat = hi.toNat * 0x100 + lo.toNat := by
  have := hi.isLt
  have := lo.isLt
  simp only [concatBytes, BitVec.toNat_ofNat]
  omega

/-! ## The masks of R55 as arithmetic -/

theorem and_lowMask (w : Word) (k : Nat) (hk : k ≤ 16) :
    (w &&& BitVec.ofNat 16 (2 ^ k - 1)).toNat = w.toNat % 2 ^ k := by
  have : 2 ^ k ≤ 2 ^ 16 := Nat.pow_le_pow_right (by decide) hk
  have h0 : 0 < 2 ^ k := Nat.two_pow_pos k
  rw [BitVec.toNat_and, BitVec.toNat_ofNat, Nat.mod_eq_of_lt (by omega), Nat.and_two_pow_sub_one_eq_mod]

/-- Masking with 0xF000 keeps the first nibble. -/
theorem and_F000 (w : Word) : (w &&& 0xF000).toNat = w.toNat / 0x1000 * 0x1000 := by
  have h : w &&& 0xF000 = w - (w &&& 0x0FFF) := by
    have h1 : (w &&& 0xF000) + (w &&& 0x0FFF) = w := by
      rw [BitVec.add_eq_or_of_and_eq_zero]
      · ext i hi; interval_cases i <;> simp
      · ext i hi; interval_cases i <;> simp
    exact BitVec.eq_sub_iff_add_eq.2 h1
  have h2 : (w &&& 0x0FFF).toNat = w.toNat % 0x1000 := and_lowMask w 12 (by decide)
  have := w.isLt
  rw [h, BitVec.toNat_sub, h2]
  omega

/-- Masking with 0xF00F keeps the first and the last nibble. -/
theorem and_F00F (w : Word) : (w &&& 0xF00F).toNat = w.toNat / 0x1000 * 0x1000 + w.toNat % 0x10 := by
  have h1 : w &&& 0xF00F = (w &&& 0xF000) + (w &&& 0x000F) := by
    rw [BitVec.add_eq_or_of_and_eq_zero]
    · ext i hi; interval_cases i <;> simp
    · ext i hi; interval_cases i <;> simp
  have h2 : (w &&& 0x000F).toNat = w.toNat % 0x10 := and_lowMask w 4 (by decide)
  have := w.isLt
  rw [h1, BitVec.toNat_add, and_F000, h2]
  omega

/-- Masking with 0xF0FF keeps the first nibble and the low byte. -/
theorem and_F0FF (w : Word) : (w &&& 0xF0FF).toNat = w.toNat / 0x1000 * 0x1000 + w.toNat % 0x100 := by
  have h1 : w &&& 0xF0FF = (w &&& 0xF000) + (w &&& 0x00FF) := by
    rw [BitVec.add_eq_or_of_and_eq_zero]
    · ext i hi; interval_cases i <;> simp
    · ext i hi; interval_cases i <;> simp
  have h2 : (w &&& 0x00FF).toNat = w.toNat % 0x100 := and_lowMask w 8 (by decide)
  have := w.isLt
  rw [h1, BitVec.toNat_add, and_F000, h2]
  omega

/-- Masking with 0xFFFF keeps the word. -/
theorem and_FFFF (w : Word) : w &&& 0xFFFF = w := by
  ext i hi; interval_cases i <;> simp

/-! ## The decoder's two answers -/

theorem decodeWord_eq_ok {w : Word} {i : Instr} : decodeWord w = .ok i ↔ decodeTree w = some i := by
  unfold decodeWord
  cases decodeTree w <;> simp

theorem decodeWord_eq_error {w : Word} {e : DecodeError} :
    decodeWord w = .error e ↔ decodeTree w = none ∧ e = .illegal w := by
  unfold decodeWord
  cases decodeTree w <;> simp [eq_comm]

end Sys2Proof
end

