-- ==== Sys2Proof/Laws/Display.lean ====
section
/-! SUPPORT. The laws of the display: what a pixel reads as after each operation, and after one sprite pixel. -/

namespace Sys2Proof.Machine

@[simp] theorem Display.getPixel_blank (x : Fin 64) (y : Fin 32) : Display.blank.getPixel x y = false := by
  simp [Display.getPixel, Display.blank]

@[simp] theorem Display.getPixel_clearScreen (d : Display) (x : Fin 64) (y : Fin 32) :
    d.clearScreen.getPixel x y = false := Display.getPixel_blank x y

/-- `set_pixel` turns exactly its pixel on (R126). -/
theorem Display.getPixel_setPixel (d : Display) (x x' : Fin 64) (y y' : Fin 32) :
    (d.setPixel x y).getPixel x' y' = if x' = x ∧ y' = y then true else d.getPixel x' y' := by
  by_cases hy : y' = y
  · subst hy
    by_cases hx : x' = x
    · subst hx; simp [Display.getPixel, Display.setPixel]
    · have : x'.val ≠ x.val := fun h => hx (Fin.ext h)
      simp [Display.getPixel, Display.setPixel, hx, this]
  · have : y.val ≠ y'.val := fun h => hy (Fin.ext h.symm)
    simp [Display.getPixel, Display.setPixel, hy, this]

/-- `unset_pixel` turns exactly its pixel off (R126). -/
theorem Display.getPixel_unsetPixel (d : Display) (x x' : Fin 64) (y y' : Fin 32) :
    (d.unsetPixel x y).getPixel x' y' = if x' = x ∧ y' = y then false else d.getPixel x' y' := by
  by_cases hy : y' = y
  · subst hy
    by_cases hx : x' = x
    · subst hx; simp [Display.getPixel, Display.unsetPixel]
    · have : x'.val ≠ x.val := fun h => hx (Fin.ext h)
      simp [Display.getPixel, Display.unsetPixel, hx, this]
  · have : y.val ≠ y'.val := fun h => hy (Fin.ext h.symm)
    simp [Display.getPixel, Display.unsetPixel, hy, this]

/-- Two displays are equal when every pixel is. -/
theorem Display.ext_getPixel {d e : Display} (h : ∀ x y, d.getPixel x y = e.getPixel x y) : d = e := by
  apply Vector.ext
  intro y hy
  apply BitVec.eq_of_getLsbD_eq
  intro x hx
  exact h ⟨x, hx⟩ ⟨y, hy⟩

/-- One sprite pixel XORs its bit onto its place and no other (R128). -/
theorem drawPixel_getPixel (x y : Nat) (bit : Bool) (g : Drawing) (px : Fin 64) (py : Fin 32) :
    (drawPixel x y bit g).disp.getPixel px py =
      (g.disp.getPixel px py ^^ (bit && decide (x = px.val ∧ y = py.val))) := by
  have hpx := px.isLt
  have hpy := py.isLt
  unfold drawPixel
  by_cases hin : y ≤ 31 ∧ x ≤ 63
  · rw [dif_pos hin]
    cases bit with
    | false => simp
    | true =>
      by_cases hp : x = px.val ∧ y = py.val
      · obtain ⟨rfl, rfl⟩ := hp
        cases hg : g.disp.getPixel px py <;>
          simp [hg, Display.getPixel_setPixel, Display.getPixel_unsetPixel]
      · have hne : ¬ (px = (⟨x, by omega⟩ : Fin 64) ∧ py = (⟨y, by omega⟩ : Fin 32)) := by
          rintro ⟨h1, h2⟩
          exact hp ⟨by rw [h1], by rw [h2]⟩
        simp only [hp, decide_false, Bool.and_false, Bool.xor_false, if_true]
        split
        · rw [Display.getPixel_unsetPixel, if_neg hne]
        · rw [Display.getPixel_setPixel, if_neg hne]
  · have hp : ¬ (x = px.val ∧ y = py.val) := by omega
    rw [dif_neg hin]
    simp [hp]

/-- One sprite pixel collides exactly when its bit is 1, it is on the screen and its place was on (R131). -/
theorem drawPixel_hit (x y : Nat) (bit : Bool) (g : Drawing) :
    (drawPixel x y bit g).hit = true ↔
      g.hit = true ∨ (bit = true ∧ ∃ (px : Fin 64) (py : Fin 32), x = px.val ∧ y = py.val ∧ g.disp.getPixel px py = true) := by
  unfold drawPixel
  by_cases hin : y ≤ 31 ∧ x ≤ 63
  · rw [dif_pos hin]
    cases bit with
    | false => simp
    | true =>
      cases hg : g.disp.getPixel ⟨x, by omega⟩ ⟨y, by omega⟩ with
      | true =>
        simp only [hg, if_true, true_and, true_iff]
        exact .inr ⟨⟨x, by omega⟩, ⟨y, by omega⟩, rfl, rfl, hg⟩
      | false =>
        simp only [hg, if_true, true_and, Bool.false_eq_true, if_false]
        constructor
        · exact .inl
        · rintro (h | ⟨px, py, h1, h2, h3⟩)
          · exact h
          · subst h1; subst h2; rw [hg] at h3; cases h3
  · rw [dif_neg hin]
    constructor
    · exact .inl
    · rintro (h | ⟨-, px, py, h1, h2, -⟩)
      · exact h
      · have := px.isLt; have := py.isLt; omega

/-- Whether the sprite rows `bs`, drawn from column `x0`, row `y0`, have a 1 bit over the display position `(px, py)`. -/
def rowsHave (x0 y0 : Nat) (bs : List Byte) (px : Fin 64) (py : Fin 32) : Bool :=
  (x0 ≤ px.val && px.val < x0 + 8) && (y0 ≤ py.val && py.val < y0 + bs.length) &&
    (bs.getD (py.val - y0) 0).getLsbD (7 - (px.val - x0))

/-- One sprite row XORs its bits onto its places and no others (R128, R129). -/
theorem drawRow_getPixel (x0 y : Nat) (b : Byte) (g : Drawing) (px : Fin 64) (py : Fin 32) (c : Nat) :
    (drawRow x0 y b c g).disp.getPixel px py =
      (g.disp.getPixel px py ^^
        decide (y = py.val ∧ x0 ≤ px.val ∧ px.val < x0 + c ∧ b.getLsbD (7 - (px.val - x0)) = true)) := by
  induction c with
  | zero =>
    have : ¬ (y = py.val ∧ x0 ≤ px.val ∧ px.val < x0 + 0 ∧ b.getLsbD (7 - (px.val - x0)) = true) := by omega
    rw [drawRow, decide_eq_false this, Bool.xor_false]
  | succ c ih =>
    rw [drawRow, drawPixel_getPixel, ih, Bool.xor_assoc]
    congr 1
    by_cases h : x0 + c = px.val
    · have h1 : ¬ (y = py.val ∧ x0 ≤ px.val ∧ px.val < x0 + c ∧ b.getLsbD (7 - (px.val - x0)) = true) := by omega
      have h2 : px.val - x0 = c := by omega
      have e1 : x0 ≤ px.val := by omega
      have e2 : px.val < x0 + (c+1) := by omega
      rw [decide_eq_false h1, Bool.false_xor]
      simp only [spriteBit, h2, h, e1, e2, true_and]
      cases b.getLsbD (7-c) <;> simp
    · have h1 : (x0 + c = px.val ∧ y = py.val) ↔ False := ⟨fun e => h e.1, False.elim⟩
      have h2 : (x0 ≤ px.val ∧ px.val < x0 + (c + 1) ∧ b.getLsbD (7 - (px.val - x0)) = true) ↔
          (x0 ≤ px.val ∧ px.val < x0 + c ∧ b.getLsbD (7 - (px.val - x0)) = true) := by
        constructor <;> (rintro ⟨p, q, r⟩; exact ⟨p, by omega, r⟩)
      simp only [h1, decide_false, Bool.and_false, Bool.xor_false, h2]

/-- One sprite row collides exactly where one of its 1 bits meets a pixel that was on (R131). -/
theorem drawRow_hit (x0 y : Nat) (b : Byte) (g : Drawing) (c : Nat) :
    (drawRow x0 y b c g).hit = true ↔
      g.hit = true ∨ ∃ (px : Fin 64) (py : Fin 32), y = py.val ∧ x0 ≤ px.val ∧ px.val < x0 + c ∧
        b.getLsbD (7 - (px.val - x0)) = true ∧ g.disp.getPixel px py = true := by
  induction c with
  | zero =>
    simp only [drawRow]
    constructor
    · exact .inl
    · rintro (h | ⟨px, py, h⟩)
      · exact h
      · omega
  | succ c ih =>
    rw [drawRow, drawPixel_hit, ih]
    constructor
    · rintro ((h | ⟨px, py, h1, h2, h3, h4, h5⟩) | ⟨hb, px, py, h1, h2, h3⟩)
      · exact .inl h
      · exact .inr ⟨px, py, h1, h2, by omega, h4, h5⟩
      · rw [drawRow_getPixel] at h3
        have : ¬ (y = py.val ∧ x0 ≤ px.val ∧ px.val < x0 + c ∧ b.getLsbD (7 - (px.val - x0)) = true) := by omega
        rw [decide_eq_false this, Bool.xor_false] at h3
        have e : px.val - x0 = c := by omega
        exact .inr ⟨px, py, h2, by omega, by omega, by rw [e]; exact hb, h3⟩
    · rintro (h | ⟨px, py, h1, h2, h3, h4, h5⟩)
      · exact .inl (.inl h)
      · by_cases hc : px.val < x0 + c
        · exact .inl (.inr ⟨px, py, h1, h2, hc, h4, h5⟩)
        · right
          have e : px.val - x0 = c := by omega
          rw [e] at h4
          refine ⟨h4, px, py, by omega, h1, ?_⟩
          rw [drawRow_getPixel, decide_eq_false (by omega), Bool.xor_false]; exact h5

/-- A sprite XORs its unclipped bits onto the display (R128 to R130). -/
theorem drawRows_getPixel (x0 y : Nat) (bs : List Byte) (g : Drawing) (px : Fin 64) (py : Fin 32) :
    (drawRows x0 y bs g).disp.getPixel px py = (g.disp.getPixel px py ^^ rowsHave x0 y bs px py) := by
  induction bs generalizing y g with
  | nil => simp [drawRows, rowsHave]
  | cons b bs ih =>
    rw [drawRows, ih, drawRow_getPixel, Bool.xor_assoc]
    congr 1
    unfold rowsHave
    by_cases h : y = py.val
    · subst h
      simp
      cases b.getLsbD (7 - (px.val - x0)) <;> simp
    · by_cases h2 : y < py.val
      · have : py.val - y = (py.val - (y+1)) + 1 := by omega
        rw [this]
        simp only [h, false_and, decide_false, Bool.false_xor, List.getD_cons_succ, List.length_cons]
        have e1 : y + 1 ≤ py.val := by omega
        have e2 : y ≤ py.val := by omega
        have e3 : (py.val < y + 1 + bs.length) ↔ (py.val < y + (bs.length + 1)) := by omega
        simp [e1, e2, e3]
      · have e1 : ¬ y + 1 ≤ py.val := by omega
        have e2 : ¬ y ≤ py.val := by omega
        simp [h, e1, e2]

/-- A sprite collides exactly where one of its unclipped 1 bits meets a pixel that was on before the draw (R131). -/
theorem drawRows_hit (x0 y : Nat) (bs : List Byte) (g : Drawing) :
    (drawRows x0 y bs g).hit = true ↔
      g.hit = true ∨ ∃ (px : Fin 64) (py : Fin 32), rowsHave x0 y bs px py = true ∧ g.disp.getPixel px py = true := by
  induction bs generalizing y g with
  | nil =>
    simp only [drawRows]
    constructor
    · exact .inl
    · rintro (h | ⟨px, py, h, -⟩)
      · exact h
      · simp [rowsHave] at h
  | cons b bs ih =>
    rw [drawRows, ih, drawRow_hit]
    have key : ∀ (px : Fin 64) (py : Fin 32), rowsHave x0 y (b :: bs) px py = true ↔
        (y = py.val ∧ x0 ≤ px.val ∧ px.val < x0 + 8 ∧ b.getLsbD (7 - (px.val - x0)) = true) ∨
          rowsHave x0 (y + 1) bs px py = true := by
      intro px py
      have h1 := drawRows_getPixel x0 y (b :: bs) ⟨Display.blank, false⟩ px py
      rw [drawRows, drawRows_getPixel, drawRow_getPixel] at h1
      simp only [Display.getPixel_blank, Bool.false_xor] at h1
      rw [← h1]
      by_cases hy : y = py.val
      · have : rowsHave x0 (y+1) bs px py = false := by simp [rowsHave]; omega
        simp [this]
      · simp [hy]
    constructor
    · rintro ((h | ⟨px, py, h1, h2, h3, h4, h5⟩) | ⟨px, py, h1, h2⟩)
      · exact .inl h
      · exact .inr ⟨px, py, (key px py).2 (.inl ⟨h1, h2, h3, h4⟩), h5⟩
      · right; refine ⟨px, py, (key px py).2 (.inr h1), ?_⟩
        rw [drawRow_getPixel, decide_eq_false] at h2
        · simpa using h2
        · simp [rowsHave] at h1; omega
    · rintro (h | ⟨px, py, h1, h2⟩)
      · exact .inl (.inl h)
      · rcases (key px py).1 h1 with ⟨a, b', c, d⟩ | h1
        · exact .inl (.inr ⟨px, py, a, b', c, d, h2⟩)
        · right; refine ⟨px, py, h1, ?_⟩
          rw [drawRow_getPixel, decide_eq_false]
          · simpa using h2
          · simp [rowsHave] at h1; omega

end Sys2Proof.Machine
end

