-- ==== Sys2Proof/Laws/State.lean ====
section
/-! SUPPORT. One lemma per field per update of State, true by rfl, so that no proof unfolds a record update. -/

namespace Sys2Proof.Machine

variable (s : State)

/-! ## writeV -/

@[simp] theorem writeV_v (x : RegNum) (b : Byte) : (s.writeV x b).v = s.v.set x b := rfl
@[simp] theorem writeV_i (x : RegNum) (b : Byte) : (s.writeV x b).i = s.i := rfl
@[simp] theorem writeV_pc (x : RegNum) (b : Byte) : (s.writeV x b).pc = s.pc := rfl
@[simp] theorem writeV_stack (x : RegNum) (b : Byte) : (s.writeV x b).stack = s.stack := rfl
@[simp] theorem writeV_dt (x : RegNum) (b : Byte) : (s.writeV x b).dt = s.dt := rfl
@[simp] theorem writeV_st (x : RegNum) (b : Byte) : (s.writeV x b).st = s.st := rfl
@[simp] theorem writeV_mem (x : RegNum) (b : Byte) : (s.writeV x b).mem = s.mem := rfl
@[simp] theorem writeV_q (x : RegNum) (b : Byte) : (s.writeV x b).q = s.q := rfl
@[simp] theorem writeV_fault (x : RegNum) (b : Byte) : (s.writeV x b).fault = s.fault := rfl
@[simp] theorem writeV_disp (x : RegNum) (b : Byte) : (s.writeV x b).disp = s.disp := rfl
@[simp] theorem writeV_input (x : RegNum) (b : Byte) : (s.writeV x b).input = s.input := rfl
@[simp] theorem writeV_stackDepth (x : RegNum) (b : Byte) : (s.writeV x b).stackDepth = s.stackDepth := rfl
@[simp] theorem writeV_loaded (x : RegNum) (b : Byte) : (s.writeV x b).loaded = s.loaded := rfl
@[simp] theorem writeV_pending (x : RegNum) (b : Byte) : (s.writeV x b).pending = s.pending := rfl
@[simp] theorem writeV_turns (x : RegNum) (b : Byte) : (s.writeV x b).turns = s.turns := rfl
@[simp] theorem writeV_redraw (x : RegNum) (b : Byte) : (s.writeV x b).redraw = s.redraw := rfl

/-! ## setI -/

@[simp] theorem setI_v (a : Word) : (s.setI a).v = s.v := rfl
@[simp] theorem setI_i (a : Word) : (s.setI a).i = a := rfl
@[simp] theorem setI_pc (a : Word) : (s.setI a).pc = s.pc := rfl
@[simp] theorem setI_stack (a : Word) : (s.setI a).stack = s.stack := rfl
@[simp] theorem setI_dt (a : Word) : (s.setI a).dt = s.dt := rfl
@[simp] theorem setI_st (a : Word) : (s.setI a).st = s.st := rfl
@[simp] theorem setI_mem (a : Word) : (s.setI a).mem = s.mem := rfl
@[simp] theorem setI_q (a : Word) : (s.setI a).q = s.q := rfl
@[simp] theorem setI_fault (a : Word) : (s.setI a).fault = s.fault := rfl
@[simp] theorem setI_disp (a : Word) : (s.setI a).disp = s.disp := rfl
@[simp] theorem setI_input (a : Word) : (s.setI a).input = s.input := rfl
@[simp] theorem setI_stackDepth (a : Word) : (s.setI a).stackDepth = s.stackDepth := rfl
@[simp] theorem setI_loaded (a : Word) : (s.setI a).loaded = s.loaded := rfl
@[simp] theorem setI_pending (a : Word) : (s.setI a).pending = s.pending := rfl
@[simp] theorem setI_turns (a : Word) : (s.setI a).turns = s.turns := rfl
@[simp] theorem setI_redraw (a : Word) : (s.setI a).redraw = s.redraw := rfl
@[simp] theorem setI_readV (a : Word) (k : RegNum) : (s.setI a).readV k = s.readV k := rfl

/-! ## setDt -/

@[simp] theorem setDt_v (b : Byte) : (s.setDt b).v = s.v := rfl
@[simp] theorem setDt_i (b : Byte) : (s.setDt b).i = s.i := rfl
@[simp] theorem setDt_pc (b : Byte) : (s.setDt b).pc = s.pc := rfl
@[simp] theorem setDt_stack (b : Byte) : (s.setDt b).stack = s.stack := rfl
@[simp] theorem setDt_dt (b : Byte) : (s.setDt b).dt = b := rfl
@[simp] theorem setDt_st (b : Byte) : (s.setDt b).st = s.st := rfl
@[simp] theorem setDt_mem (b : Byte) : (s.setDt b).mem = s.mem := rfl
@[simp] theorem setDt_q (b : Byte) : (s.setDt b).q = s.q := rfl
@[simp] theorem setDt_fault (b : Byte) : (s.setDt b).fault = s.fault := rfl
@[simp] theorem setDt_disp (b : Byte) : (s.setDt b).disp = s.disp := rfl
@[simp] theorem setDt_input (b : Byte) : (s.setDt b).input = s.input := rfl
@[simp] theorem setDt_stackDepth (b : Byte) : (s.setDt b).stackDepth = s.stackDepth := rfl
@[simp] theorem setDt_loaded (b : Byte) : (s.setDt b).loaded = s.loaded := rfl
@[simp] theorem setDt_pending (b : Byte) : (s.setDt b).pending = s.pending := rfl
@[simp] theorem setDt_turns (b : Byte) : (s.setDt b).turns = s.turns := rfl
@[simp] theorem setDt_redraw (b : Byte) : (s.setDt b).redraw = s.redraw := rfl
@[simp] theorem setDt_readV (b : Byte) (k : RegNum) : (s.setDt b).readV k = s.readV k := rfl

/-! ## setSt -/

@[simp] theorem setSt_v (b : Byte) : (s.setSt b).v = s.v := rfl
@[simp] theorem setSt_i (b : Byte) : (s.setSt b).i = s.i := rfl
@[simp] theorem setSt_pc (b : Byte) : (s.setSt b).pc = s.pc := rfl
@[simp] theorem setSt_stack (b : Byte) : (s.setSt b).stack = s.stack := rfl
@[simp] theorem setSt_dt (b : Byte) : (s.setSt b).dt = s.dt := rfl
@[simp] theorem setSt_st (b : Byte) : (s.setSt b).st = b := rfl
@[simp] theorem setSt_mem (b : Byte) : (s.setSt b).mem = s.mem := rfl
@[simp] theorem setSt_q (b : Byte) : (s.setSt b).q = s.q := rfl
@[simp] theorem setSt_fault (b : Byte) : (s.setSt b).fault = s.fault := rfl
@[simp] theorem setSt_disp (b : Byte) : (s.setSt b).disp = s.disp := rfl
@[simp] theorem setSt_input (b : Byte) : (s.setSt b).input = s.input := rfl
@[simp] theorem setSt_stackDepth (b : Byte) : (s.setSt b).stackDepth = s.stackDepth := rfl
@[simp] theorem setSt_loaded (b : Byte) : (s.setSt b).loaded = s.loaded := rfl
@[simp] theorem setSt_pending (b : Byte) : (s.setSt b).pending = s.pending := rfl
@[simp] theorem setSt_turns (b : Byte) : (s.setSt b).turns = s.turns := rfl
@[simp] theorem setSt_redraw (b : Byte) : (s.setSt b).redraw = s.redraw := rfl
@[simp] theorem setSt_readV (b : Byte) (k : RegNum) : (s.setSt b).readV k = s.readV k := rfl

/-! ## setPc -/

@[simp] theorem setPc_v (a : Word) : (s.setPc a).v = s.v := rfl
@[simp] theorem setPc_i (a : Word) : (s.setPc a).i = s.i := rfl
@[simp] theorem setPc_pc (a : Word) : (s.setPc a).pc = a := rfl
@[simp] theorem setPc_stack (a : Word) : (s.setPc a).stack = s.stack := rfl
@[simp] theorem setPc_dt (a : Word) : (s.setPc a).dt = s.dt := rfl
@[simp] theorem setPc_st (a : Word) : (s.setPc a).st = s.st := rfl
@[simp] theorem setPc_mem (a : Word) : (s.setPc a).mem = s.mem := rfl
@[simp] theorem setPc_q (a : Word) : (s.setPc a).q = s.q := rfl
@[simp] theorem setPc_fault (a : Word) : (s.setPc a).fault = s.fault := rfl
@[simp] theorem setPc_disp (a : Word) : (s.setPc a).disp = s.disp := rfl
@[simp] theorem setPc_input (a : Word) : (s.setPc a).input = s.input := rfl
@[simp] theorem setPc_stackDepth (a : Word) : (s.setPc a).stackDepth = s.stackDepth := rfl
@[simp] theorem setPc_loaded (a : Word) : (s.setPc a).loaded = s.loaded := rfl
@[simp] theorem setPc_pending (a : Word) : (s.setPc a).pending = s.pending := rfl
@[simp] theorem setPc_turns (a : Word) : (s.setPc a).turns = s.turns := rfl
@[simp] theorem setPc_redraw (a : Word) : (s.setPc a).redraw = s.redraw := rfl
@[simp] theorem setPc_readV (a : Word) (k : RegNum) : (s.setPc a).readV k = s.readV k := rfl

/-! ## beginExecute -/

@[simp] theorem beginExecute_v : (s.beginExecute).v = s.v := rfl
@[simp] theorem beginExecute_i : (s.beginExecute).i = s.i := rfl
@[simp] theorem beginExecute_pc : (s.beginExecute).pc = s.pc + 2 := rfl
@[simp] theorem beginExecute_stack : (s.beginExecute).stack = s.stack := rfl
@[simp] theorem beginExecute_dt : (s.beginExecute).dt = s.dt := rfl
@[simp] theorem beginExecute_st : (s.beginExecute).st = s.st := rfl
@[simp] theorem beginExecute_mem : (s.beginExecute).mem = s.mem := rfl
@[simp] theorem beginExecute_q : (s.beginExecute).q = s.q := rfl
@[simp] theorem beginExecute_fault : (s.beginExecute).fault = s.fault := rfl
@[simp] theorem beginExecute_disp : (s.beginExecute).disp = s.disp := rfl
@[simp] theorem beginExecute_input : (s.beginExecute).input = s.input := rfl
@[simp] theorem beginExecute_stackDepth : (s.beginExecute).stackDepth = s.stackDepth := rfl
@[simp] theorem beginExecute_loaded : (s.beginExecute).loaded = s.loaded := rfl
@[simp] theorem beginExecute_pending : (s.beginExecute).pending = s.pending := rfl
@[simp] theorem beginExecute_turns : (s.beginExecute).turns = s.turns := rfl
@[simp] theorem beginExecute_redraw : (s.beginExecute).redraw = some false := rfl
@[simp] theorem beginExecute_readV (k : RegNum) : (s.beginExecute).readV k = s.readV k := rfl

/-! ## skipIf -/

@[simp] theorem skipIf_v (c : Bool) : (s.skipIf c).v = s.v := rfl
@[simp] theorem skipIf_i (c : Bool) : (s.skipIf c).i = s.i := rfl
@[simp] theorem skipIf_pc (c : Bool) : (s.skipIf c).pc = if c then s.pc + 2 else s.pc := rfl
@[simp] theorem skipIf_stack (c : Bool) : (s.skipIf c).stack = s.stack := rfl
@[simp] theorem skipIf_dt (c : Bool) : (s.skipIf c).dt = s.dt := rfl
@[simp] theorem skipIf_st (c : Bool) : (s.skipIf c).st = s.st := rfl
@[simp] theorem skipIf_mem (c : Bool) : (s.skipIf c).mem = s.mem := rfl
@[simp] theorem skipIf_q (c : Bool) : (s.skipIf c).q = s.q := rfl
@[simp] theorem skipIf_fault (c : Bool) : (s.skipIf c).fault = s.fault := rfl
@[simp] theorem skipIf_disp (c : Bool) : (s.skipIf c).disp = s.disp := rfl
@[simp] theorem skipIf_input (c : Bool) : (s.skipIf c).input = s.input := rfl
@[simp] theorem skipIf_stackDepth (c : Bool) : (s.skipIf c).stackDepth = s.stackDepth := rfl
@[simp] theorem skipIf_loaded (c : Bool) : (s.skipIf c).loaded = s.loaded := rfl
@[simp] theorem skipIf_pending (c : Bool) : (s.skipIf c).pending = s.pending := rfl
@[simp] theorem skipIf_turns (c : Bool) : (s.skipIf c).turns = s.turns := rfl
@[simp] theorem skipIf_redraw (c : Bool) : (s.skipIf c).redraw = s.redraw := rfl
@[simp] theorem skipIf_readV (c : Bool) (k : RegNum) : (s.skipIf c).readV k = s.readV k := rfl

/-! ## requestRedraw -/

@[simp] theorem requestRedraw_v : (s.requestRedraw).v = s.v := rfl
@[simp] theorem requestRedraw_i : (s.requestRedraw).i = s.i := rfl
@[simp] theorem requestRedraw_pc : (s.requestRedraw).pc = s.pc := rfl
@[simp] theorem requestRedraw_stack : (s.requestRedraw).stack = s.stack := rfl
@[simp] theorem requestRedraw_dt : (s.requestRedraw).dt = s.dt := rfl
@[simp] theorem requestRedraw_st : (s.requestRedraw).st = s.st := rfl
@[simp] theorem requestRedraw_mem : (s.requestRedraw).mem = s.mem := rfl
@[simp] theorem requestRedraw_q : (s.requestRedraw).q = s.q := rfl
@[simp] theorem requestRedraw_fault : (s.requestRedraw).fault = s.fault := rfl
@[simp] theorem requestRedraw_disp : (s.requestRedraw).disp = s.disp := rfl
@[simp] theorem requestRedraw_input : (s.requestRedraw).input = s.input := rfl
@[simp] theorem requestRedraw_stackDepth : (s.requestRedraw).stackDepth = s.stackDepth := rfl
@[simp] theorem requestRedraw_loaded : (s.requestRedraw).loaded = s.loaded := rfl
@[simp] theorem requestRedraw_pending : (s.requestRedraw).pending = s.pending := rfl
@[simp] theorem requestRedraw_turns : (s.requestRedraw).turns = s.turns := rfl
@[simp] theorem requestRedraw_redraw : (s.requestRedraw).redraw = some true := rfl
@[simp] theorem requestRedraw_readV (k : RegNum) : (s.requestRedraw).readV k = s.readV k := rfl

/-! ## storeBytes -/

@[simp] theorem storeBytes_v (a : Nat) (bs : List Byte) : (s.storeBytes a bs).v = s.v := rfl
@[simp] theorem storeBytes_i (a : Nat) (bs : List Byte) : (s.storeBytes a bs).i = s.i := rfl
@[simp] theorem storeBytes_pc (a : Nat) (bs : List Byte) : (s.storeBytes a bs).pc = s.pc := rfl
@[simp] theorem storeBytes_stack (a : Nat) (bs : List Byte) : (s.storeBytes a bs).stack = s.stack := rfl
@[simp] theorem storeBytes_dt (a : Nat) (bs : List Byte) : (s.storeBytes a bs).dt = s.dt := rfl
@[simp] theorem storeBytes_st (a : Nat) (bs : List Byte) : (s.storeBytes a bs).st = s.st := rfl
@[simp] theorem storeBytes_mem (a : Nat) (bs : List Byte) : (s.storeBytes a bs).mem = s.mem.writeBytes a bs := rfl
@[simp] theorem storeBytes_q (a : Nat) (bs : List Byte) : (s.storeBytes a bs).q = s.q := rfl
@[simp] theorem storeBytes_fault (a : Nat) (bs : List Byte) : (s.storeBytes a bs).fault = s.fault := rfl
@[simp] theorem storeBytes_disp (a : Nat) (bs : List Byte) : (s.storeBytes a bs).disp = s.disp := rfl
@[simp] theorem storeBytes_input (a : Nat) (bs : List Byte) : (s.storeBytes a bs).input = s.input := rfl
@[simp] theorem storeBytes_stackDepth (a : Nat) (bs : List Byte) : (s.storeBytes a bs).stackDepth = s.stackDepth := rfl
@[simp] theorem storeBytes_loaded (a : Nat) (bs : List Byte) : (s.storeBytes a bs).loaded = s.loaded := rfl
@[simp] theorem storeBytes_pending (a : Nat) (bs : List Byte) : (s.storeBytes a bs).pending = s.pending := rfl
@[simp] theorem storeBytes_turns (a : Nat) (bs : List Byte) : (s.storeBytes a bs).turns = s.turns := rfl
@[simp] theorem storeBytes_redraw (a : Nat) (bs : List Byte) : (s.storeBytes a bs).redraw = s.redraw := rfl
@[simp] theorem storeBytes_readV (a : Nat) (bs : List Byte) (k : RegNum) : (s.storeBytes a bs).readV k = s.readV k := rfl

/-! ## setDisp -/

@[simp] theorem setDisp_v (d : Display) : (s.setDisp d).v = s.v := rfl
@[simp] theorem setDisp_i (d : Display) : (s.setDisp d).i = s.i := rfl
@[simp] theorem setDisp_pc (d : Display) : (s.setDisp d).pc = s.pc := rfl
@[simp] theorem setDisp_stack (d : Display) : (s.setDisp d).stack = s.stack := rfl
@[simp] theorem setDisp_dt (d : Display) : (s.setDisp d).dt = s.dt := rfl
@[simp] theorem setDisp_st (d : Display) : (s.setDisp d).st = s.st := rfl
@[simp] theorem setDisp_mem (d : Display) : (s.setDisp d).mem = s.mem := rfl
@[simp] theorem setDisp_q (d : Display) : (s.setDisp d).q = s.q := rfl
@[simp] theorem setDisp_fault (d : Display) : (s.setDisp d).fault = s.fault := rfl
@[simp] theorem setDisp_disp (d : Display) : (s.setDisp d).disp = d := rfl
@[simp] theorem setDisp_input (d : Display) : (s.setDisp d).input = s.input := rfl
@[simp] theorem setDisp_stackDepth (d : Display) : (s.setDisp d).stackDepth = s.stackDepth := rfl
@[simp] theorem setDisp_loaded (d : Display) : (s.setDisp d).loaded = s.loaded := rfl
@[simp] theorem setDisp_pending (d : Display) : (s.setDisp d).pending = s.pending := rfl
@[simp] theorem setDisp_turns (d : Display) : (s.setDisp d).turns = s.turns := rfl
@[simp] theorem setDisp_redraw (d : Display) : (s.setDisp d).redraw = s.redraw := rfl
@[simp] theorem setDisp_readV (d : Display) (k : RegNum) : (s.setDisp d).readV k = s.readV k := rfl

/-! ## setFlag -/

@[simp] theorem setFlag_v (c : Bool) : (s.setFlag c).v = s.v.set 15 (flagByte c) := rfl
@[simp] theorem setFlag_i (c : Bool) : (s.setFlag c).i = s.i := rfl
@[simp] theorem setFlag_pc (c : Bool) : (s.setFlag c).pc = s.pc := rfl
@[simp] theorem setFlag_stack (c : Bool) : (s.setFlag c).stack = s.stack := rfl
@[simp] theorem setFlag_dt (c : Bool) : (s.setFlag c).dt = s.dt := rfl
@[simp] theorem setFlag_st (c : Bool) : (s.setFlag c).st = s.st := rfl
@[simp] theorem setFlag_mem (c : Bool) : (s.setFlag c).mem = s.mem := rfl
@[simp] theorem setFlag_q (c : Bool) : (s.setFlag c).q = s.q := rfl
@[simp] theorem setFlag_fault (c : Bool) : (s.setFlag c).fault = s.fault := rfl
@[simp] theorem setFlag_disp (c : Bool) : (s.setFlag c).disp = s.disp := rfl
@[simp] theorem setFlag_input (c : Bool) : (s.setFlag c).input = s.input := rfl
@[simp] theorem setFlag_stackDepth (c : Bool) : (s.setFlag c).stackDepth = s.stackDepth := rfl
@[simp] theorem setFlag_loaded (c : Bool) : (s.setFlag c).loaded = s.loaded := rfl
@[simp] theorem setFlag_pending (c : Bool) : (s.setFlag c).pending = s.pending := rfl
@[simp] theorem setFlag_turns (c : Bool) : (s.setFlag c).turns = s.turns := rfl
@[simp] theorem setFlag_redraw (c : Bool) : (s.setFlag c).redraw = s.redraw := rfl

/-! ## writeResultAndFlag -/

@[simp] theorem writeResultAndFlag_v (x : RegNum) (r : Byte) (c : Bool) : (s.writeResultAndFlag x r c).v = (s.v.set x r).set 15 (flagByte c) := rfl
@[simp] theorem writeResultAndFlag_i (x : RegNum) (r : Byte) (c : Bool) : (s.writeResultAndFlag x r c).i = s.i := rfl
@[simp] theorem writeResultAndFlag_pc (x : RegNum) (r : Byte) (c : Bool) : (s.writeResultAndFlag x r c).pc = s.pc := rfl
@[simp] theorem writeResultAndFlag_stack (x : RegNum) (r : Byte) (c : Bool) : (s.writeResultAndFlag x r c).stack = s.stack := rfl
@[simp] theorem writeResultAndFlag_dt (x : RegNum) (r : Byte) (c : Bool) : (s.writeResultAndFlag x r c).dt = s.dt := rfl
@[simp] theorem writeResultAndFlag_st (x : RegNum) (r : Byte) (c : Bool) : (s.writeResultAndFlag x r c).st = s.st := rfl
@[simp] theorem writeResultAndFlag_mem (x : RegNum) (r : Byte) (c : Bool) : (s.writeResultAndFlag x r c).mem = s.mem := rfl
@[simp] theorem writeResultAndFlag_q (x : RegNum) (r : Byte) (c : Bool) : (s.writeResultAndFlag x r c).q = s.q := rfl
@[simp] theorem writeResultAndFlag_fault (x : RegNum) (r : Byte) (c : Bool) : (s.writeResultAndFlag x r c).fault = s.fault := rfl
@[simp] theorem writeResultAndFlag_disp (x : RegNum) (r : Byte) (c : Bool) : (s.writeResultAndFlag x r c).disp = s.disp := rfl
@[simp] theorem writeResultAndFlag_input (x : RegNum) (r : Byte) (c : Bool) : (s.writeResultAndFlag x r c).input = s.input := rfl
@[simp] theorem writeResultAndFlag_stackDepth (x : RegNum) (r : Byte) (c : Bool) : (s.writeResultAndFlag x r c).stackDepth = s.stackDepth := rfl
@[simp] theorem writeResultAndFlag_loaded (x : RegNum) (r : Byte) (c : Bool) : (s.writeResultAndFlag x r c).loaded = s.loaded := rfl
@[simp] theorem writeResultAndFlag_pending (x : RegNum) (r : Byte) (c : Bool) : (s.writeResultAndFlag x r c).pending = s.pending := rfl
@[simp] theorem writeResultAndFlag_turns (x : RegNum) (r : Byte) (c : Bool) : (s.writeResultAndFlag x r c).turns = s.turns := rfl
@[simp] theorem writeResultAndFlag_redraw (x : RegNum) (r : Byte) (c : Bool) : (s.writeResultAndFlag x r c).redraw = s.redraw := rfl

/-! ## setTimers -/

@[simp] theorem setTimers_v (p : Byte × Byte) : (s.setTimers p).v = s.v := rfl
@[simp] theorem setTimers_i (p : Byte × Byte) : (s.setTimers p).i = s.i := rfl
@[simp] theorem setTimers_pc (p : Byte × Byte) : (s.setTimers p).pc = s.pc := rfl
@[simp] theorem setTimers_stack (p : Byte × Byte) : (s.setTimers p).stack = s.stack := rfl
@[simp] theorem setTimers_dt (p : Byte × Byte) : (s.setTimers p).dt = p.1 := rfl
@[simp] theorem setTimers_st (p : Byte × Byte) : (s.setTimers p).st = p.2 := rfl
@[simp] theorem setTimers_mem (p : Byte × Byte) : (s.setTimers p).mem = s.mem := rfl
@[simp] theorem setTimers_q (p : Byte × Byte) : (s.setTimers p).q = s.q := rfl
@[simp] theorem setTimers_fault (p : Byte × Byte) : (s.setTimers p).fault = s.fault := rfl
@[simp] theorem setTimers_disp (p : Byte × Byte) : (s.setTimers p).disp = s.disp := rfl
@[simp] theorem setTimers_input (p : Byte × Byte) : (s.setTimers p).input = s.input := rfl
@[simp] theorem setTimers_stackDepth (p : Byte × Byte) : (s.setTimers p).stackDepth = s.stackDepth := rfl
@[simp] theorem setTimers_loaded (p : Byte × Byte) : (s.setTimers p).loaded = s.loaded := rfl
@[simp] theorem setTimers_pending (p : Byte × Byte) : (s.setTimers p).pending = s.pending := rfl
@[simp] theorem setTimers_turns (p : Byte × Byte) : (s.setTimers p).turns = s.turns := rfl
@[simp] theorem setTimers_redraw (p : Byte × Byte) : (s.setTimers p).redraw = s.redraw := rfl
@[simp] theorem setTimers_readV (p : Byte × Byte) (k : RegNum) : (s.setTimers p).readV k = s.readV k := rfl

/-! ## takeTurn -/

@[simp] theorem takeTurn_v : (s.takeTurn).v = s.v := rfl
@[simp] theorem takeTurn_i : (s.takeTurn).i = s.i := rfl
@[simp] theorem takeTurn_pc : (s.takeTurn).pc = s.pc := rfl
@[simp] theorem takeTurn_stack : (s.takeTurn).stack = s.stack := rfl
@[simp] theorem takeTurn_dt : (s.takeTurn).dt = (timerOpsOn s.nextTurn.timerOps (s.dt, s.st)).1 := rfl
@[simp] theorem takeTurn_st : (s.takeTurn).st = (timerOpsOn s.nextTurn.timerOps (s.dt, s.st)).2 := rfl
@[simp] theorem takeTurn_mem : (s.takeTurn).mem = s.mem := rfl
@[simp] theorem takeTurn_q : (s.takeTurn).q = s.q := rfl
@[simp] theorem takeTurn_fault : (s.takeTurn).fault = s.fault := rfl
@[simp] theorem takeTurn_disp : (s.takeTurn).disp = s.disp := rfl
@[simp] theorem takeTurn_input : (s.takeTurn).input = s.nextTurn.input := rfl
@[simp] theorem takeTurn_stackDepth : (s.takeTurn).stackDepth = s.stackDepth := rfl
@[simp] theorem takeTurn_loaded : (s.takeTurn).loaded = s.loaded := rfl
@[simp] theorem takeTurn_pending : (s.takeTurn).pending = s.pending.tail := rfl
@[simp] theorem takeTurn_turns : (s.takeTurn).turns = s.turns + 1 := rfl
@[simp] theorem takeTurn_redraw : (s.takeTurn).redraw = s.redraw := rfl
@[simp] theorem takeTurn_readV (k : RegNum) : (s.takeTurn).readV k = s.readV k := rfl

end Sys2Proof.Machine
end

