-- ==== Sys2Proof/Laws/Ops.lean ====
section
/-! SUPPORT. Everything the shared operations can do, said once for each. -/

namespace Sys2Proof.Machine

variable {s t : State} {c : FaultCause} {w : Word} {n : Nat}

/-- Raising a fault always answers the state with the latch set. -/
theorem raise_eq : raise s c w n = .next (s.faulted c w n) := rfl

/-- A range-checked completion: either the range is in memory and the step is done, or the smallest address above 0x0FFF
is reported and nothing is (R40, R117). -/
theorem withDataRange_cases {count : Nat} {word : Word} {done : State} :
    (s.i.toNat + count ≤ 0x1000 ∨ count = 0) ∧ withDataRange s count word done = .next done ∨
    (0x1000 < s.i.toNat + count ∧ 0 < count) ∧
      withDataRange s count word done = .next (s.faulted .memoryOutOfRange word (max s.i.toNat 0x1000)) := by
  unfold withDataRange firstOutOfRange inMemory Config.memSize
  by_cases h0 : count = 0
  · exact .inl ⟨.inr h0, by simp [h0]⟩
  · by_cases h1 : s.i.toNat + (count - 1) < 4096
    · exact .inl ⟨.inl (by omega), by simp [h0, h1]⟩
    · exact .inr ⟨by omega, by simp [h0, h1, raise_eq]⟩

/-- In range, the checked instruction completes. -/
theorem withDataRange_inRange {count : Nat} {word : Word} {done : State} (h : s.i.toNat + count ≤ 0x1000) :
    withDataRange s count word done = .next done := by
  rcases withDataRange_cases (s := s) (count := count) (word := word) (done := done) with h' | h'
  · exact h'.2
  · omega

/-- Out of range, it raises `MemoryOutOfRange`. -/
theorem withDataRange_outOfRange {count : Nat} {word : Word} {done : State} (h : 0x1000 < s.i.toNat + count)
    (hc : 0 < count) :
    withDataRange s count word done = .next (s.faulted .memoryOutOfRange word (max s.i.toNat 0x1000)) := by
  rcases withDataRange_cases (s := s) (count := count) (word := word) (done := done) with h' | h'
  · omega
  · exact h'.2

/-- A key-checked completion (R147). -/
theorem withKeyIndex_cases {code : Byte} {word : Word} {done : State} :
    code.toNat ≤ 15 ∧ withKeyIndex s code word done = .next done ∨
    15 < code.toNat ∧ withKeyIndex s code word done = .next (s.faulted .keyIndexOutOfRange word code.toNat) := by
  unfold withKeyIndex
  by_cases h : 15 < code.toNat
  · exact .inr ⟨h, by rw [if_pos h, raise_eq]⟩
  · exact .inl ⟨by omega, by rw [if_neg h]⟩

/-- `push` answers none exactly when the depth is a number and reached, else appends at the tail (R16). -/
theorem push_cases {a : Word} :
    s.stackDepth = .bounded s.stack.length ∧ s.push a = none ∨
    s.stackDepth ≠ .bounded s.stack.length ∧ s.push a = some { s with stack := s.stack ++ [a] } := by
  unfold State.push State.stackFull
  cases hd : s.stackDepth with
  | unbounded => simp
  | bounded n =>
    by_cases h : s.stack.length = n
    · simp [h]
    · have h' : n ≠ s.stack.length := fun e => h e.symm
      simp [h, h']

/-- `pop` answers none exactly on the empty stack, else removes the tail (R17). -/
theorem pop_cases :
    s.stack = [] ∧ s.pop = none ∨
    ∃ rest a, s.stack = rest ++ [a] ∧ s.pop = some (a, { s with stack := rest }) := by
  rcases List.eq_nil_or_concat s.stack with h | ⟨rest, a, h⟩
  · exact .inl ⟨h, by simp [State.pop, h]⟩
  · refine .inr ⟨rest, a, by simpa using h, ?_⟩
    simp [State.pop, h]

end Sys2Proof.Machine
end

