-- ==== Sys2Proof/Laws/Exec.lean ====
section
/-! SUPPORT. What one instruction can do, said once. -/

open Sys2Proof.Machine

namespace Sys2Proof.Machine

/-- Skipping twice two bytes is skipping four. -/
theorem pc_skip (p : BitVec 16) : p + 2#16 + 2#16 = p + 4#16 := by rw [BitVec.add_assoc]; rfl

/-- What an instruction's answer can be: it completes, with the output of R133, the latch kept and `pc` as in R14's table,
or it raises its own fault and changes nothing else. -/
theorem exec_cases {i : Instr} {s t : State} (h : exec i s = .next t) :
    (t.redraw = some i.drawsOrClears ∧ t.fault = s.fault ∧
      (i.dataCount = 0 ∨ s.i.toNat + i.dataCount ≤ 0x1000) ∧ t.pc = i.pcAfter s) ∨
    (∃ c n, t = s.faulted c (encode i) n ∧
      ((c = .stackUnderflow ∧ i = .op00EE ∧ s.stack = [] ∧ n = 0) ∨
       (c = .stackOverflow ∧ (∃ nnn, i = .op2NNN nnn) ∧ s.stackDepth = .bounded s.stack.length ∧ n = 0) ∨
       (c = .memoryOutOfRange ∧ 0 < i.dataCount ∧ 0x1000 < s.i.toNat + i.dataCount ∧ n = max s.i.toNat 0x1000) ∨
       (c = .keyIndexOutOfRange ∧ ∃ x, (i = .opEX9E x ∨ i = .opEXA1 x) ∧ 15 < (s.readV x).toNat ∧
         n = (s.readV x).toNat))) := by
  cases i
  case op00EE =>
    simp only [exec, exec00EE] at h
    rcases pop_cases (s := s.beginExecute) with ⟨h1, h'⟩ | ⟨r, a, h1, h'⟩
    · rw [h'] at h; cases h; exact .inr ⟨_, _, rfl, .inl ⟨rfl, rfl, h1, rfl⟩⟩
    · rw [h'] at h; cases h; left
      have h1 : s.stack = r ++ [a] := h1
      simp [Instr.drawsOrClears, Instr.dataCount, Instr.pcAfter, h1]
  case op2NNN nnn =>
    simp only [exec, exec2NNN] at h
    rcases push_cases (s := s.beginExecute) (a := s.beginExecute.pc) with ⟨h1, h'⟩ | ⟨h1, h'⟩
    · rw [h'] at h; cases h; exact .inr ⟨_, _, rfl, .inr (.inl ⟨rfl, ⟨_, rfl⟩, h1, rfl⟩)⟩
    · rw [h'] at h; cases h; left
      have : addrOperand nnn = BitVec.ofNat 16 nnn.toNat := by apply BitVec.eq_of_toNat_eq; simp [addrOperand]
      simp [Instr.drawsOrClears, Instr.dataCount, Instr.pcAfter, this]
  case op1NNN nnn =>
    cases h; left
    have : addrOperand nnn = BitVec.ofNat 16 nnn.toNat := by apply BitVec.eq_of_toNat_eq; simp [addrOperand]
    simp [Instr.drawsOrClears, Instr.dataCount, Instr.pcAfter, this]
  case opBNNN nnn =>
    cases h; left
    refine ⟨rfl, rfl, .inl rfl, ?_⟩
    simp [Instr.pcAfter, State.jumpTarget, trunc16, State.jumpOffsetUsesVx, BitVec.ofNat_add]
  case opFX1E x => cases h; left; split <;> simp [Instr.drawsOrClears, Instr.dataCount, Instr.pcAfter]
  case opFX0A x => cases h; left; split <;> rename_i hr <;> simp [Instr.drawsOrClears, Instr.dataCount, Instr.pcAfter, hr]
  case op3XNN x nn => cases h; left; simp [Instr.drawsOrClears, Instr.dataCount, Instr.pcAfter]; split <;> simp_all [pc_skip]
  case op4XNN x nn => cases h; left; simp [Instr.drawsOrClears, Instr.dataCount, Instr.pcAfter]; split <;> simp_all [pc_skip]
  case op5XY0 x nn => cases h; left; simp [Instr.drawsOrClears, Instr.dataCount, Instr.pcAfter]; split <;> simp_all [pc_skip]
  case op9XY0 x nn => cases h; left; simp [Instr.drawsOrClears, Instr.dataCount, Instr.pcAfter]; split <;> simp_all [pc_skip]
  case opEX9E x =>
    simp only [exec, execEX9E] at h
    rcases withKeyIndex_cases (s := s) with ⟨h1, h'⟩ | ⟨h1, h'⟩
    · rw [h'] at h; cases h; left; simp [Instr.drawsOrClears, Instr.dataCount, Instr.pcAfter, State.keyPressed]; split <;> simp_all [pc_skip]
    · rw [h'] at h; cases h; exact .inr ⟨_, _, rfl, .inr (.inr (.inr ⟨rfl, x, .inl rfl, h1, rfl⟩))⟩
  case opEXA1 x =>
    simp only [exec, execEXA1] at h
    rcases withKeyIndex_cases (s := s) with ⟨h1, h'⟩ | ⟨h1, h'⟩
    · rw [h'] at h; cases h; left; simp [Instr.drawsOrClears, Instr.dataCount, Instr.pcAfter, State.keyPressed]; split <;> simp_all [pc_skip]
    · rw [h'] at h; cases h; exact .inr ⟨_, _, rfl, .inr (.inr (.inr ⟨rfl, x, .inr rfl, h1, rfl⟩))⟩
  case opDXYN x y n =>
    simp only [exec, execDXYN] at h
    rcases withDataRange_cases (s := s) with ⟨h1, h'⟩ | ⟨h1, h'⟩
    · rw [h'] at h; cases h; left; exact ⟨rfl, rfl, h1.symm, rfl⟩
    · rw [h'] at h; cases h; exact .inr ⟨_, _, rfl, .inr (.inr (.inl ⟨rfl, h1.2, h1.1, rfl⟩))⟩
  case opFX33 x =>
    simp only [exec, execFX33] at h
    rcases withDataRange_cases (s := s) with ⟨h1, h'⟩ | ⟨h1, h'⟩
    · rw [h'] at h; cases h; left; exact ⟨rfl, rfl, h1.symm, rfl⟩
    · rw [h'] at h; cases h; exact .inr ⟨_, _, rfl, .inr (.inr (.inl ⟨rfl, h1.2, h1.1, rfl⟩))⟩
  case opFX55 x =>
    simp only [exec, execFX55] at h
    rcases withDataRange_cases (s := s) with ⟨h1, h'⟩ | ⟨h1, h'⟩
    · rw [h'] at h; cases h; left; exact ⟨rfl, rfl, h1.symm, rfl⟩
    · rw [h'] at h; cases h; exact .inr ⟨_, _, rfl, .inr (.inr (.inl ⟨rfl, h1.2, h1.1, rfl⟩))⟩
  case opFX65 x =>
    simp only [exec, execFX65] at h
    rcases withDataRange_cases (s := s) with ⟨h1, h'⟩ | ⟨h1, h'⟩
    · rw [h'] at h; cases h; left; exact ⟨rfl, rfl, h1.symm, rfl⟩
    · rw [h'] at h; cases h; exact .inr ⟨_, _, rfl, .inr (.inr (.inl ⟨rfl, h1.2, h1.1, rfl⟩))⟩
  all_goals (cases h; left; exact ⟨rfl, rfl, .inl rfl, rfl⟩)

end Sys2Proof.Machine
end

