-- ==== Sys2Proof/Laws/Memory.lean ====
section
/-! SUPPORT. The laws of the memory: a read after a write, and that every operation keeps the canonical form. -/

namespace Sys2Proof.Machine

/-! ## Reads after writes -/

theorem Memory.read_nil (a : Nat) : Memory.read [] a = resetByte a := rfl

/-- A cell listed above an address is not the one the address reads. -/
theorem Memory.read_of_sortedAbove {m : Memory} {lo : Nat} (h : Memory.sortedAbove (some lo) m = true) {a : Nat}
    (ha : a ≤ lo) : Memory.read m a = resetByte a := by
  induction m generalizing lo with
  | nil => rfl
  | cons c rest ih =>
    obtain ⟨k, b⟩ := c
    simp only [Memory.sortedAbove, Bool.and_eq_true, decide_eq_true_eq] at h
    have hk : a ≠ k := by omega
    simp only [Memory.read, hk, if_false]
    exact ih h.2 (by omega)

theorem Memory.sortedAbove_mono {m : Memory} {lo : Nat} {lo' : Option Nat}
    (h : Memory.sortedAbove (some lo) m = true) (hlo : ∀ l, lo' = some l → l ≤ lo) :
    Memory.sortedAbove lo' m = true := by
  cases m with
  | nil => rfl
  | cons c rest =>
    obtain ⟨k, b⟩ := c
    simp only [Memory.sortedAbove, Bool.and_eq_true, decide_eq_true_eq] at h ⊢
    refine ⟨⟨?_, h.1.2⟩, h.2⟩
    cases lo' with
    | none => rfl
    | some l => have := hlo l rfl; simp only [decide_eq_true_eq]; omega

/-- What a sorted memory reads after one write. -/
theorem Memory.read_write_of_sorted {m : Memory} {lo : Option Nat} (h : Memory.sortedAbove lo m = true)
    (a : Nat) (b : Byte) (a' : Nat) :
    Memory.read (Memory.write m a b) a' = if a' = a then b else Memory.read m a' := by
  induction m generalizing lo with
  | nil =>
    by_cases hb : b = resetByte a <;> by_cases ha : a' = a <;> simp_all [Memory.write, Memory.read]
  | cons c rest ih =>
    obtain ⟨k, v⟩ := c
    simp only [Memory.sortedAbove, Bool.and_eq_true, decide_eq_true_eq] at h
    have hrest := h.2
    have habove : ∀ x, x ≤ k → Memory.read rest x = resetByte x := fun x hx => Memory.read_of_sortedAbove hrest hx
    unfold Memory.write
    by_cases h1 : a < k
    · by_cases hb : b = resetByte a
      · simp only [h1, hb, if_true]
        by_cases ha : a' = a
        · subst ha
          have hk : a' ≠ k := by omega
          simp [Memory.read, hk, habove a' (by omega)]
        · simp [ha]
      · simp only [h1, hb, if_true, if_false]
        rfl
    · by_cases h2 : a = k
      · subst h2
        by_cases hb : b = resetByte a
        · simp only [h1, hb, if_true, if_false]
          by_cases ha : a' = a
          · subst ha; simp [habove a' (le_refl _)]
          · simp [Memory.read, ha]
        · simp only [h1, hb, if_true, if_false]
          by_cases ha : a' = a <;> simp [Memory.read, ha]
      · simp only [h1, h2, if_false, Memory.read, ih hrest]
        by_cases hk : a' = k
        · have : a' ≠ a := by omega
          simp [hk, Ne.symm h2]
        · simp [hk]

/-- A read after a write gives the byte written at its address and leaves every other address alone. -/
theorem Memory.read_write {m : Memory} (h : m.wf = true) (a : Nat) (b : Byte) (a' : Nat) :
    (m.write a b).read a' = if a' = a then b else m.read a' := by
  simp only [Memory.wf, Bool.and_eq_true] at h
  exact Memory.read_write_of_sorted h.1 a b a'

/-! ## The canonical form -/

theorem Memory.sortedAbove_write {m : Memory} {lo : Option Nat} (h : Memory.sortedAbove lo m = true)
    {a : Nat} (ha : a < Config.memSize) (hlo : ∀ l, lo = some l → l < a) (b : Byte) :
    Memory.sortedAbove lo (Memory.write m a b) = true := by
  induction m generalizing lo with
  | nil =>
    unfold Memory.write
    split
    · rfl
    · cases lo with
      | none => simp [Memory.sortedAbove, ha]
      | some l => simp [Memory.sortedAbove, ha, hlo l rfl]
  | cons c rest ih =>
    obtain ⟨k, v⟩ := c
    have h0 := h
    simp only [Memory.sortedAbove, Bool.and_eq_true, decide_eq_true_eq] at h
    unfold Memory.write
    by_cases h1 : a < k
    · simp only [h1, if_true]
      split
      · exact h0
      · simp only [Memory.sortedAbove, Bool.and_eq_true, decide_eq_true_eq]
        refine ⟨⟨?_, ha⟩, ⟨h1, h.1.2⟩, h.2⟩
        cases lo with
        | none => rfl
        | some l => simpa using hlo l rfl
    · simp only [h1, if_false]
      by_cases h2 : a = k
      · subst h2
        simp only [if_true]
        split
        · refine Memory.sortedAbove_mono h.2 ?_
          intro l hl; have := hlo l hl; omega
        · simp only [Memory.sortedAbove, Bool.and_eq_true, decide_eq_true_eq]
          exact h
      · simp only [h2, if_false, Memory.sortedAbove, Bool.and_eq_true, decide_eq_true_eq]
        refine ⟨h.1, ih h.2 ?_⟩
        intro l hl
        cases hl
        omega

theorem Memory.mem_write {m : Memory} {a : Nat} {b : Byte} {c : Host.Cell} (h : c ∈ Memory.write m a b) :
    c ∈ m ∨ (c = (a, b) ∧ b ≠ resetByte a) := by
  induction m with
  | nil =>
    unfold Memory.write at h
    split at h
    · simp at h
    · simp_all
  | cons d rest ih =>
    obtain ⟨k, v⟩ := d
    unfold Memory.write at h
    split at h
    · split at h
      · exact .inl h
      · rcases List.mem_cons.1 h with h | h
        · exact .inr ⟨h, ‹_›⟩
        · exact .inl h
    · split at h
      · split at h
        · exact .inl (List.mem_cons_of_mem _ h)
        · rcases List.mem_cons.1 h with h | h
          · exact .inr ⟨h, ‹_›⟩
          · exact .inl (List.mem_cons_of_mem _ h)
      · rcases List.mem_cons.1 h with h | h
        · exact .inl (h ▸ List.mem_cons_self ..)
        · rcases ih h with h | h
          · exact .inl (List.mem_cons_of_mem _ h)
          · exact .inr h

/-- A write inside the address space keeps the canonical form. -/
theorem Memory.write_wf {m : Memory} (h : m.wf = true) {a : Nat} (ha : a < Config.memSize) (b : Byte) :
    (m.write a b).wf = true := by
  simp only [Memory.wf, Bool.and_eq_true, List.all_eq_true] at h ⊢
  refine ⟨Memory.sortedAbove_write h.1 ha (by simp) b, ?_⟩
  intro c hc
  rcases Memory.mem_write hc with h' | ⟨rfl, hb⟩
  · exact h.2 c h'
  · simpa using hb

theorem Memory.nil_wf : Memory.wf [] = true := rfl

/-- A run of bytes stored inside the address space keeps the canonical form. -/
theorem Memory.writeBytes_wf {m : Memory} (h : m.wf = true) {a : Nat} {bs : List Byte}
    (ha : a + bs.length ≤ Config.memSize) : (m.writeBytes a bs).wf = true := by
  induction bs generalizing m a with
  | nil => exact h
  | cons b bs ih =>
    simp only [List.length_cons] at ha
    exact ih (Memory.write_wf h (by omega) b) (by omega)

/-- What a run of stored bytes reads as: byte `k` of it at address `a + k`, every other address as before. -/
theorem Memory.read_writeBytes {m : Memory} (h : m.wf = true) {a : Nat} {bs : List Byte}
    (ha : a + bs.length ≤ Config.memSize) (a' : Nat) :
    (m.writeBytes a bs).read a' =
      if a ≤ a' ∧ a' < a + bs.length then bs.getD (a' - a) 0 else m.read a' := by
  induction bs generalizing m a with
  | nil =>
    have : ¬ (a ≤ a' ∧ a' < a + ([] : List Byte).length) := by simp only [List.length_nil]; omega
    rw [if_neg this]; rfl
  | cons b bs ih =>
    simp only [List.length_cons] at ha
    have step := ih (Memory.write_wf h (by omega : a < Config.memSize) b) (a := a + 1) (by omega)
    have unfold1 : (m.writeBytes a (b :: bs)) = (m.write a b).writeBytes (a + 1) bs := rfl
    rw [unfold1, step, Memory.read_write h]
    by_cases h0 : a' = a
    · subst h0
      simp
    · by_cases h1 : a + 1 ≤ a' ∧ a' < a + 1 + bs.length
      · have h2 : a ≤ a' ∧ a' < a + (b :: bs).length := by simp only [List.length_cons]; omega
        rw [if_pos h1, if_pos h2]
        obtain ⟨d, hd⟩ : ∃ d, a' - a = d + 1 := ⟨a' - a - 1, by omega⟩
        have hd' : a' - (a + 1) = d := by omega
        simp [hd, hd']
      · have h2 : ¬ (a ≤ a' ∧ a' < a + (b :: bs).length) := by simp only [List.length_cons]; omega
        rw [if_neg h1, if_neg h2, if_neg h0]

theorem Memory.readBytes_length (m : Memory) (a n : Nat) : (m.readBytes a n).length = n := by
  induction n generalizing a with
  | zero => rfl
  | succ n ih => simp [Memory.readBytes, ih]

/-- Byte `k` of a run is the byte at address `a + k`. -/
theorem Memory.readBytes_getElem (m : Memory) (a n k : Nat) (hk : k < (m.readBytes a n).length) :
    (m.readBytes a n)[k] = m.read (a + k) := by
  induction n generalizing a k with
  | zero => simp [Memory.readBytes] at hk
  | succ n ih =>
    cases k with
    | zero => rfl
    | succ k =>
      simp only [Memory.readBytes, List.getElem_cons_succ]
      rw [ih]
      congr 1
      omega

/-! ## The range check -/

/-- The check passes exactly when every effective address is a memory address. -/
theorem firstOutOfRange_eq_none {base count : Nat} :
    firstOutOfRange base count = none ↔ ∀ k, k < count → base + k < Config.memSize := by
  unfold firstOutOfRange inMemory
  split
  · simp_all
  · split
    · constructor
      · intro _ k hk
        simp only [decide_eq_true_eq] at *
        omega
      · intro _; rfl
    · constructor
      · intro h; cases h
      · intro h
        have := h (count - 1) (by omega)
        simp_all

/-- The address the check reports: the smallest effective address above 0x0FFF. -/
theorem firstOutOfRange_eq_some {base count ea : Nat} (h : firstOutOfRange base count = some ea) :
    ea = max base 0x1000 ∧ 0 < count ∧ 0x0FFF < base + (count - 1) := by
  unfold firstOutOfRange inMemory Config.memSize at h
  split at h
  · cases h
  · split at h
    · cases h
    · cases h
      simp only [decide_eq_true_eq] at *
      refine ⟨trivial, ?_, ?_⟩ <;> omega

end Sys2Proof.Machine
end

