-- ==== Sys2Proof/Laws/PerInstr.lean ====
section
/-! SUPPORT. Per instruction: its encoding is selected by the row of R55 that has its name. -/

namespace Sys2Proof.Laws.EncodeMatch

/-- The row of 30_encoding R55 named after the instruction selects its word. -/
def Statement (i : Instr) : Prop := ∃ r, r ∈ opcodeTable ∧ r.name = i.name ∧ r.selects (encode i) = true

theorem selects_of {r : OpcodeRow} {w : Word} (h : (w &&& r.mask).toNat = r.value.toNat) : r.selects w = true := by
  simp only [OpcodeRow.selects, beq_iff_eq]
  exact BitVec.eq_of_toNat_eq h

theorem op00E0 : Statement (.op00E0) :=
  ⟨⟨"00E0", 0xFFFF, 0x00E0⟩, by decide, rfl, by decide⟩

theorem op00EE : Statement (.op00EE) :=
  ⟨⟨"00EE", 0xFFFF, 0x00EE⟩, by decide, rfl, by decide⟩

theorem op1NNN (nnn : Addr12) : Statement (.op1NNN nnn) :=
  ⟨⟨"1NNN", 0xF000, 0x1000⟩, by decide, rfl, selects_of <| by
    have := nnn.isLt
    refine (and_F000 _).trans ?_
    simp only [encode]
    rw [formA_toNat (by decide)]
    change _ = 0x1000
    omega⟩

theorem op2NNN (nnn : Addr12) : Statement (.op2NNN nnn) :=
  ⟨⟨"2NNN", 0xF000, 0x2000⟩, by decide, rfl, selects_of <| by
    have := nnn.isLt
    refine (and_F000 _).trans ?_
    simp only [encode]
    rw [formA_toNat (by decide)]
    change _ = 0x2000
    omega⟩

theorem op3XNN (x : RegNum) (nn : Byte) : Statement (.op3XNN x nn) :=
  ⟨⟨"3XNN", 0xF000, 0x3000⟩, by decide, rfl, selects_of <| by
    have := x.isLt; have := nn.isLt
    refine (and_F000 _).trans ?_
    simp only [encode]
    rw [formXI_toNat (by decide)]
    change _ = 0x3000
    omega⟩

theorem op4XNN (x : RegNum) (nn : Byte) : Statement (.op4XNN x nn) :=
  ⟨⟨"4XNN", 0xF000, 0x4000⟩, by decide, rfl, selects_of <| by
    have := x.isLt; have := nn.isLt
    refine (and_F000 _).trans ?_
    simp only [encode]
    rw [formXI_toNat (by decide)]
    change _ = 0x4000
    omega⟩

theorem op5XY0 (x y : RegNum) : Statement (.op5XY0 x y) :=
  ⟨⟨"5XY0", 0xF00F, 0x5000⟩, by decide, rfl, selects_of <| by
    have := x.isLt; have := y.isLt
    refine (and_F00F _).trans ?_
    simp only [encode]
    rw [formXY_toNat (by decide) (by decide)]
    change _ = 0x5000
    omega⟩

theorem op6XNN (x : RegNum) (nn : Byte) : Statement (.op6XNN x nn) :=
  ⟨⟨"6XNN", 0xF000, 0x6000⟩, by decide, rfl, selects_of <| by
    have := x.isLt; have := nn.isLt
    refine (and_F000 _).trans ?_
    simp only [encode]
    rw [formXI_toNat (by decide)]
    change _ = 0x6000
    omega⟩

theorem op7XNN (x : RegNum) (nn : Byte) : Statement (.op7XNN x nn) :=
  ⟨⟨"7XNN", 0xF000, 0x7000⟩, by decide, rfl, selects_of <| by
    have := x.isLt; have := nn.isLt
    refine (and_F000 _).trans ?_
    simp only [encode]
    rw [formXI_toNat (by decide)]
    change _ = 0x7000
    omega⟩

theorem op8XY0 (x y : RegNum) : Statement (.op8XY0 x y) :=
  ⟨⟨"8XY0", 0xF00F, 0x8000⟩, by decide, rfl, selects_of <| by
    have := x.isLt; have := y.isLt
    refine (and_F00F _).trans ?_
    simp only [encode]
    rw [formXY_toNat (by decide) (by decide)]
    change _ = 0x8000
    omega⟩

theorem op8XY1 (x y : RegNum) : Statement (.op8XY1 x y) :=
  ⟨⟨"8XY1", 0xF00F, 0x8001⟩, by decide, rfl, selects_of <| by
    have := x.isLt; have := y.isLt
    refine (and_F00F _).trans ?_
    simp only [encode]
    rw [formXY_toNat (by decide) (by decide)]
    change _ = 0x8001
    omega⟩

theorem op8XY2 (x y : RegNum) : Statement (.op8XY2 x y) :=
  ⟨⟨"8XY2", 0xF00F, 0x8002⟩, by decide, rfl, selects_of <| by
    have := x.isLt; have := y.isLt
    refine (and_F00F _).trans ?_
    simp only [encode]
    rw [formXY_toNat (by decide) (by decide)]
    change _ = 0x8002
    omega⟩

theorem op8XY3 (x y : RegNum) : Statement (.op8XY3 x y) :=
  ⟨⟨"8XY3", 0xF00F, 0x8003⟩, by decide, rfl, selects_of <| by
    have := x.isLt; have := y.isLt
    refine (and_F00F _).trans ?_
    simp only [encode]
    rw [formXY_toNat (by decide) (by decide)]
    change _ = 0x8003
    omega⟩

theorem op8XY4 (x y : RegNum) : Statement (.op8XY4 x y) :=
  ⟨⟨"8XY4", 0xF00F, 0x8004⟩, by decide, rfl, selects_of <| by
    have := x.isLt; have := y.isLt
    refine (and_F00F _).trans ?_
    simp only [encode]
    rw [formXY_toNat (by decide) (by decide)]
    change _ = 0x8004
    omega⟩

theorem op8XY5 (x y : RegNum) : Statement (.op8XY5 x y) :=
  ⟨⟨"8XY5", 0xF00F, 0x8005⟩, by decide, rfl, selects_of <| by
    have := x.isLt; have := y.isLt
    refine (and_F00F _).trans ?_
    simp only [encode]
    rw [formXY_toNat (by decide) (by decide)]
    change _ = 0x8005
    omega⟩

theorem op8XY6 (x y : RegNum) : Statement (.op8XY6 x y) :=
  ⟨⟨"8XY6", 0xF00F, 0x8006⟩, by decide, rfl, selects_of <| by
    have := x.isLt; have := y.isLt
    refine (and_F00F _).trans ?_
    simp only [encode]
    rw [formXY_toNat (by decide) (by decide)]
    change _ = 0x8006
    omega⟩

theorem op8XY7 (x y : RegNum) : Statement (.op8XY7 x y) :=
  ⟨⟨"8XY7", 0xF00F, 0x8007⟩, by decide, rfl, selects_of <| by
    have := x.isLt; have := y.isLt
    refine (and_F00F _).trans ?_
    simp only [encode]
    rw [formXY_toNat (by decide) (by decide)]
    change _ = 0x8007
    omega⟩

theorem op8XYE (x y : RegNum) : Statement (.op8XYE x y) :=
  ⟨⟨"8XYE", 0xF00F, 0x800E⟩, by decide, rfl, selects_of <| by
    have := x.isLt; have := y.isLt
    refine (and_F00F _).trans ?_
    simp only [encode]
    rw [formXY_toNat (by decide) (by decide)]
    change _ = 0x800E
    omega⟩

theorem op9XY0 (x y : RegNum) : Statement (.op9XY0 x y) :=
  ⟨⟨"9XY0", 0xF00F, 0x9000⟩, by decide, rfl, selects_of <| by
    have := x.isLt; have := y.isLt
    refine (and_F00F _).trans ?_
    simp only [encode]
    rw [formXY_toNat (by decide) (by decide)]
    change _ = 0x9000
    omega⟩

theorem opANNN (nnn : Addr12) : Statement (.opANNN nnn) :=
  ⟨⟨"ANNN", 0xF000, 0xA000⟩, by decide, rfl, selects_of <| by
    have := nnn.isLt
    refine (and_F000 _).trans ?_
    simp only [encode]
    rw [formA_toNat (by decide)]
    change _ = 0xA000
    omega⟩

theorem opBNNN (nnn : Addr12) : Statement (.opBNNN nnn) :=
  ⟨⟨"BNNN", 0xF000, 0xB000⟩, by decide, rfl, selects_of <| by
    have := nnn.isLt
    refine (and_F000 _).trans ?_
    simp only [encode]
    rw [formA_toNat (by decide)]
    change _ = 0xB000
    omega⟩

theorem opCXNN (x : RegNum) (nn : Byte) : Statement (.opCXNN x nn) :=
  ⟨⟨"CXNN", 0xF000, 0xC000⟩, by decide, rfl, selects_of <| by
    have := x.isLt; have := nn.isLt
    refine (and_F000 _).trans ?_
    simp only [encode]
    rw [formXI_toNat (by decide)]
    change _ = 0xC000
    omega⟩

theorem opDXYN (x y : RegNum) (n : Nat) : Statement (.opDXYN x y n) :=
  ⟨⟨"DXYN", 0xF000, 0xD000⟩, by decide, rfl, selects_of <| by
    have := x.isLt; have := y.isLt
    refine (and_F000 _).trans ?_
    change _ = 0xD000
    simp only [encode, formXY, BitVec.toNat_ofNat]
    omega⟩

theorem opEX9E (x : RegNum) : Statement (.opEX9E x) :=
  ⟨⟨"EX9E", 0xF0FF, 0xE09E⟩, by decide, rfl, selects_of <| by
    have := x.isLt
    refine (and_F0FF _).trans ?_
    simp only [encode]
    rw [formXF_toNat (by decide) (by decide)]
    change _ = 0xE09E
    omega⟩

theorem opEXA1 (x : RegNum) : Statement (.opEXA1 x) :=
  ⟨⟨"EXA1", 0xF0FF, 0xE0A1⟩, by decide, rfl, selects_of <| by
    have := x.isLt
    refine (and_F0FF _).trans ?_
    simp only [encode]
    rw [formXF_toNat (by decide) (by decide)]
    change _ = 0xE0A1
    omega⟩

theorem opFX07 (x : RegNum) : Statement (.opFX07 x) :=
  ⟨⟨"FX07", 0xF0FF, 0xF007⟩, by decide, rfl, selects_of <| by
    have := x.isLt
    refine (and_F0FF _).trans ?_
    simp only [encode]
    rw [formXF_toNat (by decide) (by decide)]
    change _ = 0xF007
    omega⟩

theorem opFX0A (x : RegNum) : Statement (.opFX0A x) :=
  ⟨⟨"FX0A", 0xF0FF, 0xF00A⟩, by decide, rfl, selects_of <| by
    have := x.isLt
    refine (and_F0FF _).trans ?_
    simp only [encode]
    rw [formXF_toNat (by decide) (by decide)]
    change _ = 0xF00A
    omega⟩

theorem opFX15 (x : RegNum) : Statement (.opFX15 x) :=
  ⟨⟨"FX15", 0xF0FF, 0xF015⟩, by decide, rfl, selects_of <| by
    have := x.isLt
    refine (and_F0FF _).trans ?_
    simp only [encode]
    rw [formXF_toNat (by decide) (by decide)]
    change _ = 0xF015
    omega⟩

theorem opFX18 (x : RegNum) : Statement (.opFX18 x) :=
  ⟨⟨"FX18", 0xF0FF, 0xF018⟩, by decide, rfl, selects_of <| by
    have := x.isLt
    refine (and_F0FF _).trans ?_
    simp only [encode]
    rw [formXF_toNat (by decide) (by decide)]
    change _ = 0xF018
    omega⟩

theorem opFX1E (x : RegNum) : Statement (.opFX1E x) :=
  ⟨⟨"FX1E", 0xF0FF, 0xF01E⟩, by decide, rfl, selects_of <| by
    have := x.isLt
    refine (and_F0FF _).trans ?_
    simp only [encode]
    rw [formXF_toNat (by decide) (by decide)]
    change _ = 0xF01E
    omega⟩

theorem opFX29 (x : RegNum) : Statement (.opFX29 x) :=
  ⟨⟨"FX29", 0xF0FF, 0xF029⟩, by decide, rfl, selects_of <| by
    have := x.isLt
    refine (and_F0FF _).trans ?_
    simp only [encode]
    rw [formXF_toNat (by decide) (by decide)]
    change _ = 0xF029
    omega⟩

theorem opFX33 (x : RegNum) : Statement (.opFX33 x) :=
  ⟨⟨"FX33", 0xF0FF, 0xF033⟩, by decide, rfl, selects_of <| by
    have := x.isLt
    refine (and_F0FF _).trans ?_
    simp only [encode]
    rw [formXF_toNat (by decide) (by decide)]
    change _ = 0xF033
    omega⟩

theorem opFX55 (x : RegNum) : Statement (.opFX55 x) :=
  ⟨⟨"FX55", 0xF0FF, 0xF055⟩, by decide, rfl, selects_of <| by
    have := x.isLt
    refine (and_F0FF _).trans ?_
    simp only [encode]
    rw [formXF_toNat (by decide) (by decide)]
    change _ = 0xF055
    omega⟩

theorem opFX65 (x : RegNum) : Statement (.opFX65 x) :=
  ⟨⟨"FX65", 0xF0FF, 0xF065⟩, by decide, rfl, selects_of <| by
    have := x.isLt
    refine (and_F0FF _).trans ?_
    simp only [encode]
    rw [formXF_toNat (by decide) (by decide)]
    change _ = 0xF065
    omega⟩

end Sys2Proof.Laws.EncodeMatch
end

