-- ==== Sys2Proof/Laws/Registers.lean ====
section
/-! SUPPORT. Reading a register after a write, and after a flag. -/

namespace Sys2Proof.Machine

variable (s : State)

/-- A read of the register written gives the byte; every other register reads as before. -/
theorem readV_writeV (x k : RegNum) (b : Byte) :
    (s.writeV x b).readV k = if k = x then b else s.readV k := by
  simp only [State.readV, State.writeV, Fin.getElem_fin, Vector.getElem_set, Fin.ext_iff, eq_comm]

@[simp] theorem readV_writeV_same (x : RegNum) (b : Byte) : (s.writeV x b).readV x = b := by
  rw [readV_writeV, if_pos rfl]

theorem readV_writeV_other {x k : RegNum} (h : k ≠ x) (b : Byte) : (s.writeV x b).readV k = s.readV k := by
  rw [readV_writeV, if_neg h]

theorem readV_setFlag (c : Bool) (k : RegNum) :
    (s.setFlag c).readV k = if k = 15 then flagByte c else s.readV k := readV_writeV s 15 k (flagByte c)

/-- After a result and a flag: VF holds the flag, the destination the result (unless it is VF), the rest is kept. -/
theorem readV_writeResultAndFlag (x : RegNum) (r : Byte) (c : Bool) (k : RegNum) :
    (s.writeResultAndFlag x r c).readV k = if k = 15 then flagByte c else if k = x then r else s.readV k := by
  rw [State.writeResultAndFlag, readV_setFlag, readV_writeV]

theorem flagByte_eq_one {c : Bool} : flagByte c = 1 ↔ c = true := by cases c <;> decide

theorem flagByte_eq_zero {c : Bool} : flagByte c = 0 ↔ c = false := by cases c <;> decide

/-- Two states with the same registers read the same. -/
theorem readV_congr {s t : State} (h : s.v = t.v) (k : RegNum) : s.readV k = t.readV k := by
  simp only [State.readV, h]

/-! ## FX55's bytes and FX65's registers -/

@[simp] theorem firstRegs_length (x : RegNum) : (s.firstRegs x).length = x.val + 1 := by
  have := x.isLt
  simp only [State.firstRegs, List.length_take, Vector.length_toList]
  omega

/-- Byte `k` of the bytes FX55 stores is `V[k]`. -/
theorem firstRegs_getD (x k : RegNum) (h : k.val ≤ x.val) : (s.firstRegs x).getD k.val 0 = s.readV k := by
  have h1 : k.val < (s.firstRegs x).length := by rw [firstRegs_length]; omega
  rw [List.getD_eq_getElem _ _ h1]
  simp [State.firstRegs, State.readV]

/-- What `loadRegs` leaves in register `k`: the byte at `a + k` for the first `count` registers, else the old one. -/
theorem loadRegs_getElem (m : Memory) (a : Nat) (v : Vector Byte 16) (count k : Nat) (hk : k < 16) :
    (loadRegs m a v count)[k] = if k < count then m.read (a + k) else v[k] := by
  induction count with
  | zero => simp [loadRegs]
  | succ c ih =>
    simp only [loadRegs, Vector.getElem_setIfInBounds, ih]
    by_cases h1 : c = k
    · simp [h1]
    · by_cases h2 : k < c
      · have : k < c + 1 := by omega
        simp [h1, h2, this]
      · have : ¬ k < c + 1 := by omega
        simp [h1, h2, this]

end Sys2Proof.Machine
end

