-- ==== Sys2Proof/Laws/Reset.lean ====
section
/-! SUPPORT. The memory right after reset. -/

namespace Sys2Proof.Machine

/-- Whatever the font, the memory after reset has the canonical form. -/
theorem resetWith_mem_wf (p : Params) : (State.resetWith p).mem.wf = true :=
  Memory.writeBytes_wf Memory.nil_wf (by simp [Config.fontBase, Config.memSize])

/-- With the font State.reset names nothing is listed. -/
theorem reset_mem : State.reset.mem = [] := by decide

end Sys2Proof.Machine
end

