-- ==== Sys2Proof/Laws/Step.lean ====
section
/-! SUPPORT. What one step can do, said once. -/

namespace Sys2Proof.Machine

variable {s t : State}

/-- The fetch reads both bytes big-endian when both are memory addresses, else nothing (R33, R34). -/
theorem fetchWord_cases (s : State) :
    s.pc.toNat ≤ 0x0FFE ∧
      s.fetchWord = some (concatBytes (s.mem.read s.pc.toNat) (s.mem.read (s.pc.toNat + 1))) ∨
    0x0FFE < s.pc.toNat ∧ s.fetchWord = none := by
  unfold State.fetchWord inMemory Config.memSize
  by_cases h : s.pc.toNat ≤ 0x0FFE
  · refine .inl ⟨h, ?_⟩
    have h1 : s.pc.toNat < 4096 := by omega
    have h2 : s.pc.toNat + 1 < 4096 := by omega
    simp [h1, h2]
  · refine .inr ⟨by omega, ?_⟩
    have h2 : ¬ s.pc.toNat + 1 < 4096 := by omega
    simp [h2]

/-- A cycle that answers a next state: the fetch fault, the decode fault, or the decoded instruction. -/
theorem cycle_next_cases (h : cycle s = .next t) :
    s.fault = none ∧ s.loaded = true ∧
    ((0x0FFE < s.pc.toNat ∧ t = s.faulted .fetchOutOfRange 0 s.pc.toNat) ∨
     ∃ op, s.pc.toNat ≤ 0x0FFE ∧ s.fetchWord = some op ∧
       ((decodeTree op = none ∧ t = s.faulted .illegalInstruction op 0) ∨
        ∃ i, decodeTree op = some i ∧ exec i s = .next t)) := by
  unfold cycle at h
  cases hf : s.fault with
  | some r => rw [hf] at h; cases h
  | none =>
    rw [hf] at h
    simp only at h
    cases hl : s.loaded with
    | false => rw [hl] at h; simp at h
    | true =>
      rw [hl, if_pos rfl] at h
      refine ⟨rfl, rfl, ?_⟩
      unfold fetchExecute at h
      rcases fetchWord_cases s with ⟨hpc, hw⟩ | ⟨hpc, hw⟩
      · rw [hw] at h
        refine .inr ⟨_, hpc, hw, ?_⟩
        simp only at h
        unfold decodeWord at h
        cases hd : decodeTree (concatBytes (s.mem.read s.pc.toNat) (s.mem.read (s.pc.toNat + 1))) with
        | none => rw [hd] at h; exact .inl ⟨rfl, by cases h; rfl⟩
        | some i => rw [hd] at h; exact .inr ⟨i, rfl, h⟩
      · rw [hw] at h
        exact .inl ⟨hpc, by cases h; rfl⟩

/-- A step is the cycle after the driver's turn. -/
theorem step_eq (s : State) : step s = cycle s.takeTurn := rfl

/-- The driver's turn leaves what the fetch reads alone. -/
@[simp] theorem takeTurn_fetchWord (s : State) : s.takeTurn.fetchWord = s.fetchWord := rfl

end Sys2Proof.Machine
end

