-- ==== Sys2Proof/Tests/Slice0.lean ====
section
/-! SUPPORT. The model's own tests: ill-formed terms, words written out from the spec's encodings, the spec's vectors
(95_test_vectors, by their ids), and for every statement with hypotheses a state and operands that meet them. -/

open Sys2Proof Sys2Proof.Machine

namespace Sys2Proof.Tests

/-! ## Helpers -/

/-- A loaded core in the reset state whose memory lists nothing, with no key and no release in its next turn. -/
def base : State :=
  { State.reset with mem := [], loaded := true, pending := [⟨[], ⟨0, none, 0⟩⟩] }

/-- `base` with the word's bytes at 0x200. -/
def baseWith (hi lo : Byte) : State := { base with mem := [(0x200, hi), (0x201, lo)] }

/-- The state an outcome goes on to; a state no test expects where it stops. -/
def going : Host.Outcome State Fault Refusal → State
  | .next t => t
  | .fault _ => { State.reset with pc := 0xDEAD }
  | .refused _ => { State.reset with pc := 0xBEEF }

/-- The state after one instruction. -/
def ran (i : Instr) (s : State) : State := going (exec i s)

/-- The latch of a state as the numbers of 60_exceptions R160: cause code, at, word, info. -/
def latch (s : State) : Option (Nat × Nat × Nat × Nat) :=
  s.fault.map fun r => (r.cause.code, r.atPc.toNat, r.word.toNat, r.info)

/-- The memory's bytes from `a` on. -/
def bytesAt (s : State) (a n : Nat) : List Nat := (s.mem.readBytes a n).map BitVec.toNat

/-! ## WellFormed refuses ill-formed terms (30_encoding R54: N is four bits) -/

theorem test_sprite_height_16_is_ill_formed : (Instr.opDXYN 0 0 16).wellFormed = false := by decide

theorem test_sprite_height_check_refuses_16 : spriteHeightOk 16 = false := by decide

theorem test_sprite_height_15_is_well_formed : (Instr.opDXYN 0 0 15).wellFormed = true := by decide

/-! ## Decoding: a word of every row, written out from 30_encoding R54 and R55 -/

theorem test_decode_form_E :
    Decodes 0x00E0 .op00E0 ∧
    Decodes 0x00EE .op00EE := by decide

theorem test_decode_form_A :
    Decodes 0x1ABC (.op1NNN 0xABC) ∧
    Decodes 0x2FED (.op2NNN 0xFED) ∧
    Decodes 0xA2F0 (.opANNN 0x2F0) ∧
    Decodes 0xB301 (.opBNNN 0x301) := by decide

theorem test_decode_form_XI :
    Decodes 0x3A12 (.op3XNN 10 0x12) ∧
    Decodes 0x4B21 (.op4XNN 11 0x21) ∧
    Decodes 0x6FAB (.op6XNN 15 0xAB) ∧
    Decodes 0x7101 (.op7XNN 1 0x01) ∧
    Decodes 0xC30F (.opCXNN 3 0x0F) := by decide

theorem test_decode_form_XY :
    Decodes 0x5AB0 (.op5XY0 10 11) ∧
    Decodes 0x9BA0 (.op9XY0 11 10) ∧
    Decodes 0x8120 (.op8XY0 1 2) ∧
    Decodes 0x8341 (.op8XY1 3 4) ∧
    Decodes 0x8562 (.op8XY2 5 6) ∧
    Decodes 0x8783 (.op8XY3 7 8) ∧
    Decodes 0x89A4 (.op8XY4 9 10) ∧
    Decodes 0x8BC5 (.op8XY5 11 12) ∧
    Decodes 0x8DE6 (.op8XY6 13 14) ∧
    Decodes 0x8F07 (.op8XY7 15 0) ∧
    Decodes 0x812E (.op8XYE 1 2) := by decide

theorem test_decode_form_XYN :
    Decodes 0xD7A3 (.opDXYN 7 10 3) ∧
    Decodes 0xD12F (.opDXYN 1 2 15) := by decide

theorem test_decode_form_XF :
    Decodes 0xE59E (.opEX9E 5) ∧
    Decodes 0xE6A1 (.opEXA1 6) ∧
    Decodes 0xF407 (.opFX07 4) ∧
    Decodes 0xF30A (.opFX0A 3) ∧
    Decodes 0xF715 (.opFX15 7) ∧
    Decodes 0xF818 (.opFX18 8) ∧
    Decodes 0xF21E (.opFX1E 2) ∧
    Decodes 0xF329 (.opFX29 3) ∧
    Decodes 0xF933 (.opFX33 9) ∧
    Decodes 0xFA55 (.opFX55 10) ∧
    Decodes 0xFB65 (.opFX65 11) := by decide

/-- Vector E1: the fields of 0xD7A3. -/
theorem test_fields_of_D7A3 :
    fieldX 0xD7A3 = 7 ∧ fieldY 0xD7A3 = 10 ∧ fieldN 0xD7A3 = 3 ∧ fieldNN 0xD7A3 = 0xA3 ∧ fieldNNN 0xD7A3 = 0x7A3 := by
  decide

/-- Illegal words of section 2.2 of the vectors, of every family that has one. -/
theorem test_illegal_words :
    [0x0000, 0x00E1, 0x01E0, 0x5121, 0x8128, 0x812D, 0x812F, 0x9121, 0xE19F, 0xF100, 0xF156, 0xFFFF].all
      (fun w => decodeTableWord 16 w == none) = true := by decide

/-- The byte at the lower address is the high byte (vector M1). -/
theorem test_decode_bytes_big_endian : decode [0x6A, 0x12, 0x34] = .ok (.op6XNN 10 0x12, [0x34]) := by decide

/-! ## One instruction on a small state (vectors by id) -/

/-- Vector T7. -/
theorem test_00EE_pops_the_tail :
    (fun t : State => (t.pc, t.stack)) (ran .op00EE { base with stack := [0x206, 0x400] }) =
      (0x400, [0x206]) := by decide

/-- Vector T8. -/
theorem test_00EE_underflow :
    (fun t : State => (t.pc, latch t)) (ran .op00EE base) =
      (0x200, some (2, 0x200, 0x00EE, 0)) := by decide

/-- Vector T1. -/
theorem test_1NNN : (fun t : State => (t.pc)) (ran (.op1NNN 0xABC) base) = 0xABC := by decide

/-- Vector T4. -/
theorem test_2NNN : (fun t : State => (t.pc, t.stack)) (ran (.op2NNN 0xABC) base) = (0xABC, [0x202]) := by decide

/-- Vector T5. -/
theorem test_2NNN_overflow :
    (fun t : State => (t.pc, t.stack.length, latch t))
      (ran (.op2NNN 0xABC) { base with stack := List.replicate 16 0x300 }) =
      (0x200, 16, some (4, 0x200, 0x2ABC, 0)) := by decide

/-- Vector T9. -/
theorem test_3XNN_skips : (fun t : State => (t.pc)) (ran (.op3XNN 10 0x12) (base.writeV 10 0x12)) = 0x204 := by decide

/-- Vector T23: the counter passes 0x0FFF. -/
theorem test_3XNN_near_the_top :
    (fun t : State => (t.pc)) (ran (.op3XNN 10 0x12) { (base.writeV 10 0x12) with pc := 0xFFE }) =
      0x1002 := by decide

/-- Vector T12. -/
theorem test_4XNN_skips : (fun t : State => (t.pc)) (ran (.op4XNN 10 0x12) (base.writeV 10 0x13)) = 0x204 := by decide

/-- Vector T11. -/
theorem test_4XNN_does_not_skip :
    (fun t : State => (t.pc)) (ran (.op4XNN 10 0x12) (base.writeV 10 0x12)) =
      0x202 := by decide

/-- Vector T14. -/
theorem test_5XY0_does_not_skip :
    (fun t : State => (t.pc)) (ran (.op5XY0 10 11) ((base.writeV 10 7).writeV 11 8)) =
      0x202 := by decide

/-- Vector T13. -/
theorem test_5XY0_skips :
    (fun t : State => (t.pc)) (ran (.op5XY0 10 11) ((base.writeV 10 7).writeV 11 7)) =
      0x204 := by decide

/-- Vector T17. -/
theorem test_9XY0_skips :
    (fun t : State => (t.pc)) (ran (.op9XY0 10 11) ((base.writeV 10 7).writeV 11 8)) =
      0x204 := by decide

/-- Vector T18. -/
theorem test_9XY0_same_register :
    (fun t : State => (t.pc)) (ran (.op9XY0 10 10) (base.writeV 10 7)) =
      0x202 := by decide

/-- Vector T21. -/
theorem test_BNNN_with_V0_past_0FFF :
    (fun t : State => (t.pc)) (ran (.opBNNN 0xFFF) (base.writeV 0 0xFF)) =
      0x10FE := by decide

/-- Vector T20. -/
theorem test_BNNN_with_VX :
    (fun t : State => (t.pc)) (ran (.opBNNN 0x300) { ((base.writeV 0 0x10).writeV 3 0x20) with q := 0b000100 }) =
      0x320 := by decide

/-- Vector A1. -/
theorem test_6XNN : (fun t : State => (t.readV 15, t.pc)) (ran (.op6XNN 15 0xAB) base) = (0xAB, 0x202) := by decide

/-- Vector A2. -/
theorem test_7XNN_wraps_without_flag :
    (fun t : State => (t.readV 1, t.readV 15)) (ran (.op7XNN 1 0x01) ((base.writeV 1 0xFF).writeV 15 7)) =
      (0x00, 7) := by decide

/-- Vector A4. -/
theorem test_8XY0 : (fun t : State => (t.readV 1)) (ran (.op8XY0 1 2) (base.writeV 2 0x7E)) = 0x7E := by decide

/-- Vector A5. -/
theorem test_8XY1_leaves_VF :
    (fun t : State => (t.readV 1, t.readV 15)) (ran (.op8XY1 1 2) (((base.writeV 1 0xF0).writeV 2 0x3C).writeV 15 5)) =
      (0xFC, 5) := by decide

/-- Vector A6. -/
theorem test_8XY2 :
    (fun t : State => (t.readV 1, t.readV 15)) (ran (.op8XY2 1 2) (((base.writeV 1 0xF0).writeV 2 0x3C).writeV 15 5)) =
      (0x30, 5) := by decide

/-- Vector A7. -/
theorem test_8XY3 :
    (fun t : State => (t.readV 1, t.readV 15)) (ran (.op8XY3 1 2) (((base.writeV 1 0xF0).writeV 2 0x3C).writeV 15 5)) =
      (0xCC, 5) := by decide

/-- Vector A12. -/
theorem test_8XY4_sum_255_clears_VF :
    (fun t : State => (t.readV 1, t.readV 15)) (ran (.op8XY4 1 2) (((base.writeV 1 0x80).writeV 2 0x7F).writeV 15 1)) =
      (0xFF, 0) := by decide

/-- Vector A14. -/
theorem test_8XY4_flag_over_result :
    (fun t : State => (t.readV 15)) (ran (.op8XY4 15 1) ((base.writeV 15 0xF0).writeV 1 0x20)) =
      1 := by decide

/-- Vector A21. -/
theorem test_8XY5_equal_operands :
    (fun t : State => (t.readV 1, t.readV 15)) (ran (.op8XY5 1 2) (((base.writeV 1 0x33).writeV 2 0x33).writeV 15 1)) =
      (0x00, 0) := by decide

/-- Vector A25. -/
theorem test_8XY5_reads_old_VF :
    (fun t : State => (t.readV 1, t.readV 15)) (ran (.op8XY5 1 15) ((base.writeV 1 9).writeV 15 1)) =
      (8, 1) := by decide

/-- Vector A30. -/
theorem test_8XY6_shifts_VX :
    (fun t : State => (t.readV 1, t.readV 15, t.readV 2)) (ran (.op8XY6 1 2) ((base.writeV 1 0x05).writeV 2 0x08)) =
      (0x02, 1, 0x08) := by decide

/-- Vector A31. -/
theorem test_8XY6_shifts_VY :
    (fun t : State => (t.readV 1, t.readV 15, t.readV 2))
      (ran (.op8XY6 1 2) { ((base.writeV 1 0x05).writeV 2 0x08) with q := 0b000001 }) =
      (0x04, 0, 0x08) := by decide

/-- Vector A26. -/
theorem test_8XY7 :
    (fun t : State => (t.readV 1, t.readV 15, t.readV 2)) (ran (.op8XY7 1 2) ((base.writeV 1 0x10).writeV 2 0x20)) =
      (0x10, 1, 0x20) := by decide

/-- Vector A29. -/
theorem test_8XY7_flag_over_result :
    (fun t : State => (t.readV 15)) (ran (.op8XY7 15 2) ((base.writeV 15 1).writeV 2 3)) =
      1 := by decide

/-- Vector A36. -/
theorem test_8XYE_shifts_VX :
    (fun t : State => (t.readV 1, t.readV 15)) (ran (.op8XYE 1 2) (base.writeV 1 0x81)) =
      (0x02, 1) := by decide

/-- Vector A37. -/
theorem test_8XYE_shifts_VY :
    (fun t : State => (t.readV 1, t.readV 15))
      (ran (.op8XYE 1 2) { ((base.writeV 1 0x81).writeV 2 0x40) with q := 0b000001 }) =
      (0x80, 0) := by decide

/-- Vector A41. -/
theorem test_CXNN :
    (fun t : State => (t.readV 3)) (ran (.opCXNN 3 0x0F) { base with input := ⟨0, none, 0xA7⟩ }) =
      0x07 := by decide

/-- Vector X1. -/
theorem test_ANNN : (fun t : State => (t.i)) (ran (.opANNN 0x2F0) { base with i := 0xFFFF }) = 0x2F0 := by decide

/-- Vector X9. -/
theorem test_FX1E_overflow_past_16_bits :
    (fun t : State => (t.i, t.readV 15)) (ran (.opFX1E 2) { (base.writeV 2 0xFF) with i := 0xFF01 }) =
      (0x0000, 1) := by decide

/-- Vector X3. -/
theorem test_FX1E_leaves_VF :
    (fun t : State => (t.i, t.readV 15))
      (ran (.opFX1E 2) { ((base.writeV 2 0x20).writeV 15 7) with i := 0xFFF0, q := 0b001000 }) =
      (0x0010, 7) := by decide

/-- Vector X12. -/
theorem test_FX29_low_nibble : (fun t : State => (t.i)) (ran (.opFX29 3) (base.writeV 3 0x1A)) = 0x0082 := by decide

/-- Vector X14. -/
theorem test_FX33 :
    (fun t : State => (bytesAt t 0x300 4)) (ran (.opFX33 3) { (base.writeV 3 254) with i := 0x300 }) =
      [2, 5, 4, 0] := by decide

/-- Vector X19. -/
theorem test_FX33_out_of_range :
    (fun t : State => (latch t, bytesAt t 0xFFE 2)) (ran (.opFX33 3) { (base.writeV 3 9) with i := 0xFFE }) =
      (some (6, 0x200, 0xF333, 0x1000), [0, 0]) := by decide

/-- Vector X23. -/
theorem test_FX55_moves_I :
    (fun t : State => (bytesAt t 0x400 4, t.i))
      (ran (.opFX55 2) { ((((base.writeV 0 0x11).writeV 1 0x22).writeV 2 0x33).writeV 3 0x44) with i := 0x400, q := 0b000010 }) =
      ([0x11, 0x22, 0x33, 0], 0x403) := by decide

/-- Vector X28. -/
theorem test_FX55_out_of_range :
    (fun t : State => (latch t, bytesAt t 0xFFF 1, t.i)) (ran (.opFX55 1) { (base.writeV 0 0xAB) with i := 0xFFF }) =
      (some (6, 0x200, 0xF155, 0x1000), [0], 0xFFF) := by decide

/-- Vector X31, its first six registers. -/
theorem test_FX65_from_the_font :
    (fun t : State => (t.v.toList.take 6, t.i)) (ran (.opFX65 5) { base with i := 0x50 }) =
      ([0xF0, 0x90, 0x90, 0x90, 0xF0, 0x20], 0x50) := by decide

/-- Vector X24. -/
theorem test_FX65_leaves_the_register_above :
    (fun t : State => (t.v.toList.take 4))
      (ran (.opFX65 2) { (base.writeV 3 0x99) with i := 0x400, mem := [(0x400, 0x11), (0x401, 0x22), (0x402, 0x33), (0x403, 0x44)] }) =
      [0x11, 0x22, 0x33, 0x99] := by decide

/-- Vector KT1. -/
theorem test_EX9E :
    (fun t : State => (t.pc)) (ran (.opEX9E 5) { (base.writeV 5 0x0A) with input := ⟨0x0400, none, 0⟩ }) =
      0x204 := by decide

/-- Vector KT5. -/
theorem test_EX9E_code_16 :
    (fun t : State => (t.pc, latch t)) (ran (.opEX9E 5) { (base.writeV 5 0x10) with input := ⟨0x0001, none, 0⟩ }) =
      (0x200, some (7, 0x200, 0xE59E, 0x10)) := by decide

/-- Vector KT3. -/
theorem test_EXA1 :
    (fun t : State => (t.pc)) (ran (.opEXA1 5) { (base.writeV 5 0x0A) with input := ⟨0x0400, none, 0⟩ }) =
      0x202 := by decide

/-- Vector KT6. -/
theorem test_EXA1_code_255 :
    (fun t : State => (t.pc, latch t)) (ran (.opEXA1 5) { (base.writeV 5 0xFF) with input := ⟨0x8000, none, 0⟩ }) =
      (0x200, some (7, 0x200, 0xE5A1, 0xFF)) := by decide

/-- Vector KT8. -/
theorem test_FX0A_waits :
    (fun t : State => (t.pc, t.readV 3)) (ran (.opFX0A 3) { base with input := ⟨0x0008, none, 0⟩ }) =
      (0x200, 0) := by decide

/-- Vector KT9. -/
theorem test_FX0A_ends :
    (fun t : State => (t.pc, t.readV 3)) (ran (.opFX0A 3) { base with input := ⟨0, some 7, 0⟩ }) =
      (0x202, 7) := by decide

/-- Vector KT11. -/
theorem test_FX07 :
    (fun t : State => (t.readV 4, t.dt)) (ran (.opFX07 4) { base with dt := 0x3C }) =
      (0x3C, 0x3C) := by decide

/-- Vector KT12. -/
theorem test_FX15 :
    (fun t : State => (t.dt, t.st == base.st)) (ran (.opFX15 4) (base.writeV 4 0x3C)) =
      (0x3C, true) := by decide

/-- Vector KT13. -/
theorem test_FX18 : (fun t : State => (t.st, t.dt)) (ran (.opFX18 4) (base.writeV 4 0x05)) = (0x05, 0) := by decide

/-- Vector DR1. -/
theorem test_00E0 :
    (fun t : State => (t.disp == Display.blank, t.readV 15, t.redraw))
      (ran .op00E0 { (base.writeV 15 1) with disp := Vector.replicate 32 0xFFFF }) =
      (true, 1, some true) := by decide

/-- Vector DR2. -/
theorem test_DXYN_clips_at_the_corner :
    (fun t : State => (t.disp[31] == 0xF000000000000000, t.disp[30] == 0 && t.disp[0] == 0, t.readV 15))
      (ran (.opDXYN 1 2 1) { ((base.writeV 1 60).writeV 2 31) with i := 0x300, mem := [(0x300, 0xFF)] }) =
      (true, true, 0) := by decide

/-- Vector DR7, its second draw. -/
theorem test_DXYN_collides :
    (fun t : State => (t.disp[0] == 0x33, t.readV 15))
      (ran (.opDXYN 1 2 1) { base with i := 0x300, mem := [(0x300, 0x3C)], disp := Display.blank.set 0 0x0F }) =
      (true, 1) := by decide

/-! ## Steps, driver operations -/

/-- Vector M2: the last word of memory runs, and leaves the counter past it. -/
theorem test_step_at_0FFE :
    (fun t : State => (t.readV 10, t.pc))
      (going (step { base with pc := 0xFFE, mem := [(0xFFE, 0x6A), (0xFFF, 0x12)] })) = (0x12, 0x1000) := by decide

/-- Vector M3. -/
theorem test_step_at_0FFF_faults :
    latch (going (step { base with pc := 0xFFF })) = some (5, 0xFFF, 0x0000, 0xFFF) := by decide

/-- Vector LD3: reset memory at 0x200 is the illegal word 0x0000. -/
theorem test_step_of_empty_memory_faults : latch (going (step base)) = some (1, 0x200, 0x0000, 0) := by decide

/-- Vector G2: a halted core returns its record. -/
theorem test_step_halted : step (going (step base)) = .fault (.halted ⟨.illegalInstruction, 0x200, 0x0000, 0⟩) := by rfl

/-- withFetchWord places the very next instruction of the reset state. -/
theorem test_withFetchWord_runs :
    (fun t : State => (t.readV 1, t.pc))
      (going (step (State.withFetchWord { State.reset with mem := [] } 16 0x6105))) = (5, 0x202) := by decide

/-- Vectors KT15 and KT16. -/
theorem test_ticks :
    (fun t : State => (t.dt, t.st)) ((({ base with dt := 1, st := 0 } : State).timerOp .tickDelay).timerOp .tickSound) =
      (0, 0) := by decide

/-- Vector KT15, the second tick: no wrap to 0xFF. -/
theorem test_tick_at_zero : (({ base with dt := 0 } : State).timerOp .tickDelay).dt = 0 := by decide

/-- Vector LD4. -/
theorem test_reset_memory :
    bytesAt State.reset 0x04F 2 = [0, 0xF0] ∧ bytesAt State.reset 0x09F 2 = [0x80, 0] := by decide

/-- The load stands from 0x200 on (R197). -/
theorem test_load_places_bytes :
    bytesAt (going (load [0x12, 0x00] { base with loaded := false })) 0x1FF 4 = [0, 0x12, 0x00, 0] := by decide

/-! ## Witnesses: states and operands that meet the hypotheses of the statements -/

theorem witness_DecodeInvertsEncode : (Instr.opDXYN 15 15 15).wellFormed = true := by decide

theorem witness_EncodeInvertsDecode : decodeWord 0xFFFF = .error (.illegal 0xFFFF) ∧
    decodeWord 0xDFFF = .ok (.opDXYN 15 15 15) := by decide

theorem witness_DecodeSelectsTheTableRow :
    (⟨"DXYN", 0xF000, 0xD000⟩ : OpcodeRow) ∈ opcodeTable ∧
      OpcodeRow.selects ⟨"DXYN", 0xF000, 0xD000⟩ 0xD000 = true := by decide

theorem witness_IllegalWordsAreThoseOfTheTree :
    decodeWord 0x00DF = .error (.illegal 0x00DF) ∧ decodeWord 0x5001 = .error (.illegal 0x5001) ∧
      decodeWord 0x800D = .error (.illegal 0x800D) ∧ decodeWord 0xF066 = .error (.illegal 0xF066) := by decide

/-- The last place a fetch can read from. -/
def lastPlace : State := { base with pc := 0xFFE, mem := [(0xFFE, 0x6A), (0xFFF, 0x12)] }

theorem witness_StepRunsTheDecodedInstruction :
    lastPlace.Ready ∧ (Instr.op6XNN 10 0x12).wellFormed = true ∧
      decode [lastPlace.mem.read lastPlace.pc.toNat, lastPlace.mem.read (lastPlace.pc.toNat + 1)] =
        .ok (.op6XNN 10 0x12, []) := by unfold State.Ready; decide

theorem witness_FetchReadsTwoBytesOrFaults_outside :
    0x0FFE < ({ base with pc := 0xFFF } : State).pc.toNat ∧ base.fault = none ∧ base.loaded = true := by decide

theorem witness_FetchReadsTwoBytesOrFaults_inside : lastPlace.pc.toNat ≤ 0x0FFE := by decide

theorem witness_IllegalWordRaisesBeforeAnyWrite :
    base.Ready ∧ base.fetchWord = some 0x0000 ∧ decodeWord 0x0000 = .error (.illegal 0x0000) := by
  unfold State.Ready; decide

/-- A core halted by the empty stack's return. -/
def halted : State := base.faulted .stackUnderflow 0x00EE 0

theorem witness_HaltedCoreKeepsItsFault :
    halted.fault = some ⟨.stackUnderflow, 0x200, 0x00EE, 0⟩ ∧ halted.loaded = true ∧
      ∃ t, perform (.timer .tickDelay) halted = .next t := ⟨by decide, by decide, _, rfl⟩

theorem witness_OperationsOutOfOrderAreRefused :
    (State.reset.loaded = false ∧ State.reset.fault = none) ∧ base.loaded = true ∧
      (∃ t, perform (.load []) State.reset = .next t) ∧ ∃ t, step base = .next t :=
  ⟨by decide, by decide, ⟨_, rfl⟩, _, rfl⟩

theorem witness_ReturnPopsTheTail :
    base.stack = [] ∧ ({ base with stack := [0x206, 0x400] } : State).stack = [0x206] ++ [0x400] := by decide

/-- A stack of sixteen entries. -/
def fullStack : State := { base with stack := List.replicate 16 0x300 }

/-- A stack of fifteen entries. -/
def almostFullStack : State := { base with stack := List.replicate 15 0x300, pc := 0xFFE }

theorem witness_CallPushesTheReturnAddress :
    fullStack.stackDepth = .bounded fullStack.stack.length ∧
      almostFullStack.stackDepth ≠ .bounded almostFullStack.stack.length ∧ almostFullStack.pc.toNat ≤ 0x0FFE := by
  decide

theorem witness_ReturnResumesAfterTheCall :
    ∃ t u : State, exec (.op2NNN 0xABC) almostFullStack = .next t ∧ t.redraw = some false ∧ u.stack = t.stack :=
  ⟨_, _, rfl, rfl, rfl⟩

theorem witness_FinishedProgramStaysFinished : (baseWith 0x12 0x00).Finished := by
  unfold State.Finished State.Ready; decide

theorem witness_SubtractFlagsExcludeEachOther :
    ∃ t u, exec (.op8XY5 1 2) base = .next t ∧ exec (.op8XY7 1 2) base = .next u := ⟨_, _, rfl, rfl⟩

theorem witness_AddToIndex :
    base.q.getLsbD 3 = false ∧ ({ base with q := 0b001000 } : State).q.getLsbD 3 = true := by decide

theorem witness_StoreDecimalDigits :
    base.mem.wf = true ∧ 0x0FFD < ({ base with i := 0xFFE } : State).i.toNat ∧
      ({ base with i := 0xFFD } : State).i.toNat ≤ 0x0FFD := by decide

theorem witness_StoreRegisters :
    base.mem.wf = true ∧ 0x0FFF < ({ base with i := 0xFF1 } : State).i.toNat + (15 : RegNum).val ∧
      ({ base with i := 0xFF0 } : State).i.toNat + (15 : RegNum).val ≤ 0x0FFF := by decide

theorem witness_LoadRegisters :
    0x0FFF < ({ base with i := 0x1000 } : State).i.toNat + (0 : RegNum).val ∧
      ({ base with i := 0xFFF } : State).i.toNat + (0 : RegNum).val ≤ 0x0FFF ∧
      (0 : RegNum).val ≤ (0 : RegNum).val ∧ (0 : RegNum).val < (1 : RegNum).val := by decide

/-- `I` where fifteen bytes and one more just fit, and the registers not all zero. -/
def topRegs : State := { (base.writeV 0 0xAB).writeV 15 0xCD with i := 0xFF0 }

theorem witness_StoreThenLoadGivesRegistersBack :
    topRegs.mem.wf = true ∧ topRegs.i.toNat + (15 : RegNum).val ≤ 0x0FFF ∧ ∃ t, exec (.opFX55 15) topRegs = .next t :=
  ⟨by decide, by decide, _, rfl⟩

theorem witness_DataRangeIsCheckedFirst_outside : ¬ ({ base with i := 0xFFE } : State).InRange 3 :=
  fun h => absurd (h 2 (by decide)) (by decide)

theorem witness_DataRangeIsCheckedFirst_inside : ({ base with i := 0xFFD } : State).InRange 3 := by
  unfold State.InRange; decide

theorem witness_StoresAreSeenByTheFetch :
    topRegs.mem.wf = true ∧ (∃ t, exec (.opFX55 15) topRegs = .next t) ∧ topRegs.i.toNat + (15 : RegNum).val ≤ 0x0FFF ∧
      (15 : RegNum).val = (14 : RegNum).val + 1 ∧ (∃ t, exec (.opFX33 0) { topRegs with i := 0xFFD } = .next t) ∧
      ({ topRegs with i := 0xFFD } : State).i.toNat ≤ 0x0FFD :=
  ⟨by decide, ⟨_, rfl⟩, by decide, by decide, ⟨_, rfl⟩, by decide⟩

/-- One row 0x80 at the last address, to be drawn at the corner of a display whose corner is on. -/
def cornerOn : State :=
  { (base.writeV 1 63).writeV 2 31 with
    i := 0xFFF, mem := [(0xFFF, 0x80)], disp := Display.blank.set 31 0x8000000000000000 }

theorem witness_DrawXorsTheSprite_outside : ¬ cornerOn.InRange 2 := fun h => absurd (h 1 (by decide)) (by decide)

theorem witness_DrawXorsTheSprite_collision :
    cornerOn.InRange 1 ∧ cornerOn.disp.getPixel 63 31 = true ∧
      (ran (.opDXYN 1 2 1) cornerOn).disp.getPixel 63 31 = false := by unfold State.InRange; decide

theorem witness_DrawXorsTheSprite_no_collision :
    ¬ ∃ px py, Display.blank.getPixel px py = true ∧
      (ran (.opDXYN 1 2 1) { cornerOn with disp := Display.blank }).disp.getPixel px py = false := by
  rintro ⟨px, py, h, -⟩
  rw [Display.getPixel_blank] at h
  cases h

theorem witness_DrawingTwiceRestoresTheDisplay :
    cornerOn.InRange 1 ∧ ∃ t u, exec (.opDXYN 1 2 1) cornerOn = .next t ∧ exec (.opDXYN 1 2 1) t = .next u :=
  ⟨by unfold State.InRange; decide, _, _, rfl, rfl⟩

theorem witness_KeySkips :
    15 < ((base.writeV 5 16).readV 5).toNat ∧ ((base.writeV 5 15).readV 5).toNat ≤ 15 := by decide

theorem witness_WaitForKeyRelease :
    base.input.released = none ∧ ({ base with input := ⟨0, some 15, 0⟩ } : State).input.released = some 15 := by decide

theorem witness_TimerTicksSaturate : base.loaded = true := by decide

theorem witness_InputsReachOnlyTheirInstructions :
    (Instr.opFX0A 3).sameInput base.input ⟨0xFFFF, none, 0xFF⟩ ∧ ∃ t, exec (.opFX0A 3) base = .next t :=
  ⟨rfl, _, rfl⟩

theorem witness_QuirkBitsReachOnlyTheirInstructions :
    (Instr.op8XY6 1 2).sameQuirk base.q 0b111110 ∧ ∃ t, exec (.op8XY6 1 2) base = .next t := ⟨rfl, _, rfl⟩

theorem witness_SoundTimerIsSetAndNeverRead :
    (∀ x, Instr.op6XNN 1 2 ≠ .opFX18 x) ∧ ∃ t, exec (.op6XNN 1 2) base = .next t := ⟨fun _ h => (by cases h), _, rfl⟩

theorem witness_DelayTimerInstructions :
    ∃ t, exec (.opFX15 1) (base.writeV 1 0xFF) = .next t ∧ t.dt ≠ (base.writeV 1 0xFF).dt := ⟨_, rfl, by decide⟩

theorem witness_MaskedRandomByte :
    (∀ x nn, Instr.op6XNN 1 2 ≠ .opCXNN x nn) ∧ ∃ t, exec (.op6XNN 1 2) base = .next t :=
  ⟨fun _ _ h => (by cases h), _, rfl⟩

theorem witness_RegistersChangeOnlyWhereNamed :
    (∃ t, exec (.op8XY4 1 2) (base.writeV 2 5) = .next t ∧ t.readV 1 ≠ (base.writeV 2 5).readV 1) ∧
      ∃ t, exec (.op8XY4 1 2) (base.writeV 15 5) = .next t ∧ t.readV 15 ≠ (base.writeV 15 5).readV 15 :=
  ⟨⟨_, rfl, by decide⟩, _, rfl, by decide⟩

theorem witness_FlagsAreZeroOrOne :
    (Instr.opFX1E 1).producesFlag base = true ∧ ∃ t, exec (.opFX1E 1) base = .next t ∧ t.redraw ≠ none :=
  ⟨by decide, _, rfl, by decide⟩

theorem witness_StateIsWrittenOnlyByItsInstructions :
    (∃ t, exec (.opANNN 1) base = .next t ∧ t.i ≠ base.i) ∧
      (∃ t, exec (.op2NNN 1) base = .next t ∧ t.stack ≠ base.stack) ∧
      (∃ t, exec (.opFX15 1) (base.writeV 1 1) = .next t ∧ t.dt ≠ (base.writeV 1 1).dt) ∧
      (∃ t, exec (.opFX18 0) base = .next t ∧ t.st ≠ base.st) ∧
      (∃ t, exec (.opFX55 0) topRegs = .next t ∧ t.mem ≠ topRegs.mem) ∧
      ∃ t, exec .op00E0 cornerOn = .next t ∧ t.disp ≠ cornerOn.disp :=
  ⟨⟨_, rfl, by decide⟩, ⟨_, rfl, by decide⟩, ⟨_, rfl, by decide⟩, ⟨_, rfl, by decide⟩, ⟨_, rfl, by decide⟩, _, rfl,
    by decide⟩

theorem witness_PcFollowsItsTable :
    (∃ t, exec (.op1NNN 0xFFF) base = .next t ∧ t.redraw ≠ none) ∧
      (∃ t, exec (.op2NNN 0xFFF) fullStack = .next t ∧ t.redraw = none) ∧ ∃ t, step base = .next t ∧ t.redraw = none :=
  ⟨⟨_, rfl, by decide⟩, ⟨_, rfl, by decide⟩, _, rfl, by decide⟩

theorem witness_EveryInstructionAnswersANextState :
    ∃ t, exec .op00EE base = .next t ∧ t.redraw = none := ⟨_, rfl, rfl⟩

theorem witness_RedrawIsAskedForByDisplayInstructions : ∃ t, exec .op00E0 base = .next t := ⟨_, rfl⟩

theorem witness_FaultingStepIsVoid : ∃ t, step base = .next t ∧ t.redraw = none := ⟨_, rfl, by decide⟩

theorem witness_FaultsHaveTheirCauses :
    (∃ t, exec .op00EE base = .next t ∧ t.redraw = none) ∧ (∃ t, exec (.op2NNN 0) fullStack = .next t ∧ t.redraw = none) ∧
      (∃ t, exec (.opFX55 1) { base with i := 0xFFF } = .next t ∧ t.redraw = none) ∧
      ∃ t, exec (.opEX9E 5) (base.writeV 5 16) = .next t ∧ t.redraw = none :=
  ⟨⟨_, rfl, rfl⟩, ⟨_, rfl, rfl⟩, ⟨_, rfl, rfl⟩, _, rfl, rfl⟩

theorem witness_ConfigurationIsFixed :
    (∃ t, step base = .next t) ∧ (∃ t, perform (.timer .tickSound) base = .next t) ∧
      ∀ p, DriverOp.timer .tickSound ≠ .reset p := ⟨⟨_, rfl⟩, ⟨_, rfl⟩, fun _ h => by cases h⟩

theorem witness_ResetLeavesTheResetState : defaultParams.valid = true := by decide

theorem witness_LoadPlacesTheProgram :
    State.reset.loaded = false ∧ State.reset.mem.wf = true ∧ 3584 < (List.replicate 3585 (0 : Byte)).length ∧
      (List.replicate 3584 (0 : Byte)).length ≤ 3584 := ⟨by decide, by decide, by rw [List.length_replicate]; omega,
    by rw [List.length_replicate]⟩

theorem witness_StepKeepsTheInvariant : base.Inv ∧ ∃ t, step base = .next t :=
  ⟨by unfold State.Inv; decide, _, rfl⟩

theorem witness_DriverOperationsKeepTheInvariant :
    base.Inv ∧ (∀ p, DriverOp.reset defaultParams = .reset p → p.valid = true) ∧
      ∃ t, perform (.reset defaultParams) base = .next t :=
  ⟨by unfold State.Inv; decide, fun p h => by cases h; decide, _, rfl⟩

/-- Destinations next to VF, and the greatest sprite height: the side conditions of the arithmetic and the draw. -/
theorem witness_AddWithCarry : (14 : RegNum) ≠ 15 := by decide

theorem witness_SubtractWithStrictFlag : (0 : RegNum) ≠ 15 := by decide

theorem witness_ShiftsByOneBit : (14 : RegNum) ≠ 15 := by decide

theorem witness_DrawXorsTheSprite_height : 15 < 16 := by decide

theorem witness_ResetAsksForANewLoad : (List.replicate 3584 (0 : Byte)).length ≤ 3584 := by rw [List.length_replicate]

theorem witness_TimerOperationsWaitForTheLoad : State.reset.loaded = false := by decide

end Sys2Proof.Tests
end

/-! ## 10_state: how a completing and a faulting instruction leave `pc` -/

namespace Sys2Proof.Machine

section
variable {i : Instr} {s t : State}

@[simp] theorem faulted_pc (c : FaultCause) (w : Word) (n : Nat) : (s.faulted c w n).pc = s.pc := rfl
@[simp] theorem faulted_redraw (c : FaultCause) (w : Word) (n : Nat) : (s.faulted c w n).redraw = none := rfl

/-- The output tells a completion from a fault (R52): with an output, `pc` is the table's. -/
theorem exec_pc_of_redraw (h : exec i s = .next t) (hr : t.redraw ≠ none) : t.pc = i.pcAfter s := by
  rcases exec_cases h with ⟨_, _, _, hpc⟩ | ⟨c, n, rfl, _⟩
  · exact hpc
  · exact absurd (faulted_redraw c (encode i) n) hr

/-- An instruction that gives no output has only latched a fault (R166). -/
theorem exec_faulted_of_no_redraw (h : exec i s = .next t) (hr : t.redraw = none) :
    ∃ c n, t = s.faulted c (encode i) n := by
  rcases exec_cases h with ⟨hd, _⟩ | ⟨c, n, rfl, _⟩
  · rw [hr] at hd; cases hd
  · exact ⟨c, n, rfl⟩

/-- A step that gives no output has only latched a fault, of the fetch, the decode or the instruction, after the driver's
turn. -/
theorem step_faulted_of_no_redraw (h : step s = .next t) (hr : t.redraw = none) :
    ∃ c w n, t = s.takeTurn.faulted c w n := by
  rw [step_eq] at h
  obtain ⟨_, _, ⟨_, hfetch⟩ | ⟨op, _, _, ⟨_, hillegal⟩ | ⟨i, _, hexec⟩⟩⟩ := cycle_next_cases h
  · exact ⟨_, _, _, hfetch⟩
  · exact ⟨_, _, _, hillegal⟩
  · obtain ⟨c, n, ht⟩ := exec_faulted_of_no_redraw hexec hr
    exact ⟨c, _, n, ht⟩

end

/-- Settles O46, from what an instruction's and a step's answer can be. -/
theorem pcFollowsItsTable : Obligations.PcFollowsItsTable := by
  refine ⟨fun i s t h => ⟨exec_pc_of_redraw h, fun hr => ?_⟩, fun s t h hr => ?_⟩
  · obtain ⟨c, n, rfl⟩ := exec_faulted_of_no_redraw h hr
    exact faulted_pc c (encode i) n
  · obtain ⟨c, w, n, rfl⟩ := step_faulted_of_no_redraw h hr
    rw [faulted_pc, takeTurn_pc]

end Sys2Proof.Machine

/-! ## 20_memory: the check of the data range (R40) -/

namespace Sys2Proof.Machine

section
variable {i : Instr} {s : State}

@[simp] theorem faulted_fault (c : FaultCause) (w : Word) (n : Nat) :
    (s.faulted c w n).fault = some { cause := c, atPc := s.pc, word := w, info := n } := rfl

/-- The data bytes are all in memory exactly when the last of them is; there may be none. -/
theorem inRange_iff {count : Nat} : s.InRange count ↔ count = 0 ∨ s.i.toNat + count ≤ 0x1000 := by
  constructor
  · intro h
    by_cases hc : count = 0
    · exact .inl hc
    · have hlast := h (count - 1) (by omega)
      omega
  · intro h k hk
    omega

/-- Out of range, the address reported is a data address above 0x0FFF, and no such address is smaller. -/
theorem max_is_least_outOfRange {count : Nat} (h : ¬ s.InRange count) :
    (∃ k, k < count ∧ max s.i.toNat 0x1000 = s.i.toNat + k) ∧ 0x0FFF < max s.i.toNat 0x1000 ∧
      ∀ k, k < count → 0x0FFF < s.i.toNat + k → max s.i.toNat 0x1000 ≤ s.i.toNat + k := by
  rw [inRange_iff] at h
  exact ⟨⟨0x1000 - s.i.toNat, by omega⟩, by omega, by omega⟩

/-- With a data byte out of range, an instruction does nothing but report it: the four that have data bytes are all
range-checked completions. -/
theorem exec_outOfRange (h : ¬ s.InRange i.dataCount) :
    exec i s = .next (s.faulted .memoryOutOfRange (encode i) (max s.i.toNat 0x1000)) := by
  have hpos : 0 < i.dataCount := by rw [inRange_iff] at h; omega
  have hout : 0x1000 < s.i.toNat + i.dataCount := by rw [inRange_iff] at h; omega
  cases i
  case opDXYN x y n => exact withDataRange_outOfRange hout hpos
  case opFX33 x => exact withDataRange_outOfRange hout hpos
  case opFX55 x => exact withDataRange_outOfRange hout hpos
  case opFX65 x => exact withDataRange_outOfRange hout hpos
  all_goals exact absurd hpos (Nat.lt_irrefl 0)

/-- An instruction that reports a data byte out of range has one. -/
theorem not_inRange_of_exec_memoryOutOfRange {w : Word} {ea : Nat}
    (h : exec i s = .next (s.faulted .memoryOutOfRange w ea)) : ¬ s.InRange i.dataCount := by
  rw [inRange_iff]
  rcases exec_cases h with ⟨hredraw, _⟩ | ⟨c, n, hfaulted, hcause⟩
  · cases hredraw
  · have hc : FaultCause.memoryOutOfRange = c := by
      have hlatch := congrArg State.fault hfaulted
      simp only [faulted_fault, Option.some.injEq, FaultRecord.mk.injEq] at hlatch
      exact hlatch.1
    subst hc
    obtain ⟨⟨⟩, _⟩ | ⟨⟨⟩, _⟩ | ⟨_, hpos, hout, _⟩ | ⟨⟨⟩, _⟩ := hcause
    omega

end

/-- Settles O31: a byte out of range is reported before anything is done, and only such a byte is. -/
theorem dataRangeIsCheckedFirst : Obligations.DataRangeIsCheckedFirst :=
  fun _ _ => ⟨fun h => ⟨_, exec_outOfRange h, max_is_least_outOfRange h⟩,
    fun h _ _ hexec => not_inRange_of_exec_memoryOutOfRange hexec h⟩

end Sys2Proof.Machine

/-! ## 30_encoding: the illegal words, family by family (R56) -/

namespace Sys2Proof

section
variable {w : Word}

theorem fieldN3_eq_div : fieldN3 w = w.toNat / 0x1000 := by
  have := w.isLt
  unfold fieldN3
  omega

theorem decodeFamily0_eq_none : decodeFamily0 w = none ↔ w.toNat ≠ 0x00E0 ∧ w.toNat ≠ 0x00EE := by
  change _ ↔ w.toNat ≠ (0x00E0 : Word).toNat ∧ w.toNat ≠ (0x00EE : Word).toNat
  rw [← BitVec.toNat_ne, ← BitVec.toNat_ne]
  unfold decodeFamily0
  split_ifs with hclear hreturn
  · simp [hclear]
  · simp [hreturn]
  · exact ⟨fun _ => ⟨hclear, hreturn⟩, fun _ => rfl⟩

theorem decodeFamily5_eq_none : decodeFamily5 w = none ↔ w.toNat % 0x10 ≠ 0 := by
  change _ ↔ fieldN w ≠ 0
  unfold decodeFamily5
  split_ifs <;> simp [*]

theorem decodeFamily8_eq_none :
    decodeFamily8 w = none ↔ w.toNat % 0x10 ∉ [0, 1, 2, 3, 4, 5, 6, 7, 0xE] := by
  change _ ↔ fieldN w ∉ _
  unfold decodeFamily8
  split
  case h_10 => simp_all
  all_goals simp [*]

theorem decodeFamily9_eq_none : decodeFamily9 w = none ↔ w.toNat % 0x10 ≠ 0 := by
  change _ ↔ fieldN w ≠ 0
  unfold decodeFamily9
  split_ifs <;> simp [*]

theorem decodeFamilyE_eq_none : decodeFamilyE w = none ↔ w.toNat % 0x100 ∉ [0x9E, 0xA1] := by
  rw [← fieldNN_toNat]
  unfold decodeFamilyE
  split
  case h_3 => simp_all
  all_goals simp [*]

theorem decodeFamilyF_eq_none :
    decodeFamilyF w = none ↔
      w.toNat % 0x100 ∉ [0x07, 0x0A, 0x15, 0x18, 0x1E, 0x29, 0x33, 0x55, 0x65] := by
  rw [← fieldNN_toNat]
  unfold decodeFamilyF
  split
  case h_10 => simp_all
  all_goals simp [*]

/-- The tree rejects a word only in a family that has a secondary key: each other first nibble always decodes. -/
theorem decodeTree_eq_none :
    decodeTree w = none ↔
      (fieldN3 w = 0x0 ∧ decodeFamily0 w = none) ∨ (fieldN3 w = 0x5 ∧ decodeFamily5 w = none) ∨
      (fieldN3 w = 0x8 ∧ decodeFamily8 w = none) ∨ (fieldN3 w = 0x9 ∧ decodeFamily9 w = none) ∨
      (fieldN3 w = 0xE ∧ decodeFamilyE w = none) ∨ (fieldN3 w = 0xF ∧ decodeFamilyF w = none) := by
  have hlt : fieldN3 w < 0x10 := Nat.mod_lt _ (by decide)
  unfold decodeTree
  generalize fieldN3 w = n at hlt
  interval_cases n <;> simp

end

/-- Settles O4: the families with a secondary key, each rejecting the keys it does not list. -/
theorem illegalWordsAreThoseOfTheTree : Obligations.IllegalWordsAreThoseOfTheTree := by
  intro w
  constructor
  · simp only [decodeWord_eq_error, exists_and_left, exists_eq, and_true, decodeTree_eq_none, fieldN3_eq_div,
      decodeFamily0_eq_none, decodeFamily5_eq_none, decodeFamily8_eq_none, decodeFamily9_eq_none,
      decodeFamilyE_eq_none, decodeFamilyF_eq_none]
  · intro e he
    exact (decodeWord_eq_error.1 he).2

end Sys2Proof

/-! ## 30_encoding: an encoded instruction is decoded to itself (R51, R54, R56) -/

namespace Sys2Proof

/-! ### The fields of each encoding form -/

section
variable {k j jj : Nat} (x y : RegNum) (nn : Byte) (nnn : Addr12)

@[simp] theorem fieldN3_formA (hk : k < 16) : fieldN3 (formA k nnn) = k := by
  have := nnn.isLt
  rw [fieldN3_eq_div, formA_toNat hk]
  omega

@[simp] theorem fieldNNN_formA (hk : k < 16) : fieldNNN (formA k nnn) = nnn := by
  have := nnn.isLt
  apply BitVec.eq_of_toNat_eq
  rw [fieldNNN_toNat, formA_toNat hk]
  omega

@[simp] theorem fieldN3_formXI (hk : k < 16) : fieldN3 (formXI k x nn) = k := by
  have := nn.isLt
  rw [fieldN3_eq_div, formXI_toNat hk]
  omega

@[simp] theorem fieldX_formXI (hk : k < 16) : fieldX (formXI k x nn) = x := by
  have := nn.isLt
  apply Fin.ext
  rw [fieldX_val, formXI_toNat hk]
  omega

@[simp] theorem fieldNN_formXI (hk : k < 16) : fieldNN (formXI k x nn) = nn := by
  have := nn.isLt
  apply BitVec.eq_of_toNat_eq
  rw [fieldNN_toNat, formXI_toNat hk]
  omega

@[simp] theorem fieldN3_formXY (hk : k < 16) (hj : j < 16) : fieldN3 (formXY k x y j) = k := by
  rw [fieldN3_eq_div, formXY_toNat hk hj]
  omega

@[simp] theorem fieldX_formXY (hk : k < 16) (hj : j < 16) : fieldX (formXY k x y j) = x := by
  apply Fin.ext
  rw [fieldX_val, formXY_toNat hk hj]
  omega

@[simp] theorem fieldY_formXY (hk : k < 16) (hj : j < 16) : fieldY (formXY k x y j) = y := by
  apply Fin.ext
  rw [fieldY_val, formXY_toNat hk hj]
  omega

@[simp] theorem fieldN_formXY (hk : k < 16) (hj : j < 16) : fieldN (formXY k x y j) = j := by
  rw [fieldN, formXY_toNat hk hj]
  omega

@[simp] theorem fieldN3_formXF (hk : k < 16) (hjj : jj < 256) : fieldN3 (formXF k x jj) = k := by
  rw [fieldN3_eq_div, formXF_toNat hk hjj]
  omega

@[simp] theorem fieldX_formXF (hk : k < 16) (hjj : jj < 256) : fieldX (formXF k x jj) = x := by
  apply Fin.ext
  rw [fieldX_val, formXF_toNat hk hjj]
  omega

/-- The secondary key of the families E and F, as their match reads it. -/
theorem formXF_toNat_mod (hk : k < 16) (hjj : jj < 256) : (formXF k x jj).toNat % 0x100 = jj := by
  rw [formXF_toNat hk hjj]
  omega

end

/-! ### The tree finds the instruction: the first nibble selects the family, the secondary key the row -/

section
variable {i : Instr}

theorem decodeTree_encode (hi : i.wellFormed = true) : decodeTree (encode i) = some i := by
  cases i
  case op00E0 | op00EE => rfl
  case op1NNN nnn | op2NNN nnn | opANNN nnn | opBNNN nnn => simp [encode, decodeTree]
  case op3XNN x nn | op4XNN x nn | op6XNN x nn | op7XNN x nn | opCXNN x nn => simp [encode, decodeTree]
  case op5XY0 x y => simp [encode, decodeTree, decodeFamily5]
  case op8XY0 x y | op8XY1 x y | op8XY2 x y | op8XY3 x y | op8XY4 x y | op8XY5 x y | op8XY6 x y | op8XY7 x y
      | op8XYE x y => simp [encode, decodeTree, decodeFamily8]
  case op9XY0 x y => simp [encode, decodeTree, decodeFamily9]
  case opDXYN x y n =>
    have hn : n < 16 := of_decide_eq_true hi
    simp [encode, decodeTree, hn]
  case opEX9E x | opEXA1 x => simp [encode, decodeTree, decodeFamilyE, formXF_toNat_mod]
  case opFX07 x | opFX0A x | opFX15 x | opFX18 x | opFX1E x | opFX29 x | opFX33 x | opFX55 x | opFX65 x =>
    simp [encode, decodeTree, decodeFamilyF, formXF_toNat_mod]

theorem decodeWord_encode (hi : i.wellFormed = true) : decodeWord (encode i) = .ok i :=
  decodeWord_eq_ok.2 (decodeTree_encode hi)

/-- A number decodes to the instruction whose encoding has that value. -/
theorem decodes_of_encode_toNat {n : Nat} (hi : i.wellFormed = true) (hn : (encode i).toNat = n) :
    Machine.Decodes n i := by
  rw [Machine.Decodes, ← hn, BitVec.ofNat_toNat, BitVec.setWidth_eq]
  exact decodeWord_encode hi

end

end Sys2Proof

/-! ## 40_control_transfer: the exact next state of each instruction -/

namespace Sys2Proof.Machine

section
variable {s t : State} {rest : List Word} {w : Word}

theorem addrOperand_eq_ofNat (nnn : Addr12) : addrOperand nnn = BitVec.ofNat 16 nnn.toNat :=
  (BitVec.ofNat_toNat 16 nnn).symm

theorem addrOperand_toNat (nnn : Addr12) : (addrOperand nnn).toNat = nnn.toNat :=
  BitVec.toNat_setWidth_of_le (by decide)

/-! ### Return and call (R70, R72, R80) -/

theorem exec_return_of_empty (h : s.stack = []) :
    exec .op00EE s = .next (s.faulted .stackUnderflow 0x00EE 0) := by
  change exec00EE s = _
  unfold exec00EE
  rcases pop_cases (s := s.beginExecute) with ⟨-, hpop⟩ | ⟨r, a, hstack, -⟩
  · rw [hpop]
    exact raise_eq
  · rw [beginExecute_stack, h] at hstack
    simp at hstack

theorem exec_return_of_concat (h : s.stack = rest ++ [w]) :
    exec .op00EE s = .next { s with pc := w, stack := rest, redraw := some false } := by
  change exec00EE s = _
  unfold exec00EE
  rcases pop_cases (s := s.beginExecute) with ⟨hstack, -⟩ | ⟨r, a, hstack, hpop⟩
  · rw [beginExecute_stack, h] at hstack
    simp at hstack
  · rw [beginExecute_stack, h] at hstack
    obtain ⟨rfl, ha⟩ := List.append_inj' hstack rfl
    obtain rfl : w = a := List.singleton_inj.1 ha
    rw [hpop]
    rfl

theorem exec_call_of_full (nnn : Addr12) (h : s.stackDepth = .bounded s.stack.length) :
    exec (.op2NNN nnn) s = .next (s.faulted .stackOverflow (encode (.op2NNN nnn)) 0) := by
  change exec2NNN nnn s = _
  unfold exec2NNN
  rcases push_cases (s := s.beginExecute) (a := s.beginExecute.pc) with ⟨-, hpush⟩ | ⟨hroom, -⟩
  · rw [hpush]
    exact raise_eq
  · exact absurd h hroom

theorem exec_call_of_room (nnn : Addr12) (h : s.stackDepth ≠ .bounded s.stack.length) :
    exec (.op2NNN nnn) s = .next
      { s with pc := BitVec.ofNat 16 nnn.toNat, stack := s.stack ++ [s.pc + 2], redraw := some false } := by
  change exec2NNN nnn s = _
  unfold exec2NNN
  rcases push_cases (s := s.beginExecute) (a := s.beginExecute.pc) with ⟨hfull, -⟩ | ⟨-, hpush⟩
  · exact absurd hfull h
  · rw [hpush, addrOperand_eq_ofNat]
    rfl

/-- A call that gives an output has completed, so its return address is the tail of the stack. -/
theorem stack_of_completed_call {nnn : Addr12} (h : exec (.op2NNN nnn) s = .next t) (hr : t.redraw = some false) :
    t.stack = s.stack ++ [s.pc + 2] := by
  by_cases hd : s.stackDepth = .bounded s.stack.length
  · cases (exec_call_of_full nnn hd).symm.trans h
    cases hr
  · cases (exec_call_of_room nnn hd).symm.trans h
    rfl

/-! ### Jumps (R71, R77) -/

theorem exec_jump (nnn : Addr12) :
    exec (.op1NNN nnn) s = .next { s with pc := addrOperand nnn, redraw := some false } := rfl

theorem exec_jumpOffset (nnn : Addr12) :
    exec (.opBNNN nnn) s = .next { s with pc := s.jumpTarget nnn, redraw := some false } := rfl

/-- The greatest sum, 0xFFF + 0xFF, is below 2^16. -/
theorem addr_add_byte_le (nnn : Addr12) (b : Byte) : nnn.toNat + b.toNat ≤ 0x10FE := by
  have := nnn.isLt
  have := b.isLt
  omega

/-- The sum of BNNN never wraps (R77). -/
theorem jumpTarget_toNat (nnn : Addr12) :
    (s.jumpTarget nnn).toNat = nnn.toNat + (if s.q.getLsbD 2 then s.readV (addrX nnn) else s.readV 0).toNat :=
  (BitVec.toNat_ofNat _ 16).trans (Nat.mod_eq_of_lt ((addr_add_byte_le nnn _).trans_lt (by decide)))

theorem addrX_val (nnn : Addr12) : (addrX nnn).val = nnn.toNat / 0x100 :=
  Nat.mod_eq_of_lt (Nat.div_lt_of_lt_mul nnn.isLt)

/-! ### Skips (R73 to R76, R78) -/

/-- A skip leaves `pc` two bytes further than the two of the instruction itself, and changes nothing else. -/
theorem beginExecute_skipIf (c : Bool) :
    s.beginExecute.skipIf c = { s with pc := if c then s.pc + 4 else s.pc + 2, redraw := some false } := by
  cases c with
  | false => rfl
  | true => exact congrArg (fun p => { s with pc := p, redraw := some false }) (pc_skip s.pc)

/-- Skip when the two bytes are equal: 3XNN and 5XY0. -/
theorem beginExecute_skipIf_beq (a b : Byte) :
    s.beginExecute.skipIf (a == b) =
      { s with pc := if a = b then s.pc + 4 else s.pc + 2, redraw := some false } := by
  simp only [beginExecute_skipIf, beq_iff_eq]

/-- Skip when the two bytes differ: 4XNN and 9XY0. -/
theorem beginExecute_skipIf_bne (a b : Byte) :
    s.beginExecute.skipIf (a != b) =
      { s with pc := if a = b then s.pc + 2 else s.pc + 4, redraw := some false } := by
  simp only [beginExecute_skipIf, bne_iff_ne, ne_eq, ite_not]

end

/-- Settles O11: the stack is empty or has a tail, and `pop` says which. -/
theorem returnPopsTheTail : Obligations.ReturnPopsTheTail :=
  ⟨decodes_of_encode_toNat (i := .op00EE) rfl rfl, fun _ h => exec_return_of_empty h,
    fun _ _ _ h => exec_return_of_concat h⟩

/-- Settles O12: both targets are exact, since neither the address nor the sum reaches 2^16. -/
theorem jumpsReachTheirTargets : Obligations.JumpsReachTheirTargets := by
  intro s nnn
  refine ⟨decodes_of_encode_toNat rfl (formA_toNat (by decide) nnn),
    decodes_of_encode_toNat rfl (formA_toNat (by decide) nnn), ⟨_, exec_jump nnn, rfl, addrOperand_toNat nnn⟩,
    _, exec_jumpOffset nnn, rfl, jumpTarget_toNat nnn, ?_, addrX_val nnn⟩
  exact (jumpTarget_toNat nnn).trans_le (addr_add_byte_le nnn _)

/-- Settles O13: `push` fails exactly on a full stack. -/
theorem callPushesTheReturnAddress : Obligations.CallPushesTheReturnAddress := by
  intro s nnn
  refine ⟨decodes_of_encode_toNat rfl (formA_toNat (by decide) nnn), exec_call_of_full nnn,
    exec_call_of_room nnn, ?_⟩
  intro hpc
  bv_omega

/-- Settles O16: the return pops what the completed call pushed. -/
theorem returnResumesAfterTheCall : Obligations.ReturnResumesAfterTheCall :=
  fun _ _ _ _ hcall hr hstack => exec_return_of_concat (hstack.trans (stack_of_completed_call hcall hr))

/-- Settles O14: both skips compare `V[X]` with NN. -/
theorem immediateSkips : Obligations.ImmediateSkips := by
  intro s x nn
  exact ⟨decodes_of_encode_toNat rfl ((formXI_toNat (by decide) x nn).trans (by omega)),
    decodes_of_encode_toNat rfl ((formXI_toNat (by decide) x nn).trans (by omega)),
    congrArg Host.Outcome.next (beginExecute_skipIf_beq (s.readV x) nn),
    congrArg Host.Outcome.next (beginExecute_skipIf_bne (s.readV x) nn)⟩

/-- Settles O15: both skips compare `V[X]` with `V[Y]`. -/
theorem registerSkips : Obligations.RegisterSkips := by
  intro s x y
  exact ⟨decodes_of_encode_toNat rfl ((formXY_toNat (by decide) (by decide) x y).trans (by omega)),
    decodes_of_encode_toNat rfl ((formXY_toNat (by decide) (by decide) x y).trans (by omega)),
    congrArg Host.Outcome.next (beginExecute_skipIf_beq (s.readV x) (s.readV y)),
    congrArg Host.Outcome.next (beginExecute_skipIf_bne (s.readV x) (s.readV y))⟩

end Sys2Proof.Machine

/-! ## 41_register_alu: results, flags and the frame of the register instructions -/

namespace Sys2Proof.Machine

section
variable {i : Instr} {s t : State} {x y k : RegNum} {nn r : Byte} {c : Bool} {count : Nat} {word : Word} {done : State}
  {P : State → Prop}

/-! ### The encoding forms as the spec's tables write them (R51, R54) -/

theorem decodes_of_formXI (n3 : Nat) (hi : i.wellFormed = true) (he : encode i = formXI n3 x nn)
    (hn3 : n3 < 16 := by decide) : Decodes (n3 * 0x1000 + 0x100 * x.val + nn.toNat) i := by
  apply decodes_of_encode_toNat hi
  rw [he, formXI_toNat hn3]
  omega

theorem decodes_of_formXY (n3 n0 : Nat) (hi : i.wellFormed = true) (he : encode i = formXY n3 x y n0)
    (hn3 : n3 < 16 := by decide) (hn0 : n0 < 16 := by decide) :
    Decodes (n3 * 0x1000 + n0 + 0x100 * x.val + 0x10 * y.val) i := by
  apply decodes_of_encode_toNat hi
  rw [he, formXY_toNat hn3 hn0]
  omega

/-! ### The two ways a register instruction completes: a result, or a result and then a flag (R103) -/

/-- An instruction that ends in a write of `V[x]` changes no other register, advances `pc` and changes nothing else. -/
theorem completes_of_writeV (h : exec i s = .next (s.beginExecute.writeV x r))
    (hP : P (s.beginExecute.writeV x r)) :
    ∃ t, exec i s = .next t ∧ OnlyRegsAndPc s t ∧ AdvancedQuietly s t ∧ RegsKept [x] s t ∧ P t := by
  refine ⟨_, h, ⟨rfl, fun _ => rfl⟩, ⟨rfl, rfl⟩, fun k hk => ?_, hP⟩
  exact readV_writeV_other _ (List.ne_of_not_mem_cons hk) r

theorem readV_writeResultAndFlag_flag : (s.writeResultAndFlag x r c).readV 15 = flagByte c := by
  rw [readV_writeResultAndFlag, if_pos rfl]

theorem readV_writeResultAndFlag_result (hx : x ≠ 15) : (s.writeResultAndFlag x r c).readV x = r := by
  rw [readV_writeResultAndFlag, if_neg hx, if_pos rfl]

theorem readV_writeResultAndFlag_other (hx : k ≠ x) (hf : k ≠ 15) :
    (s.writeResultAndFlag x r c).readV k = s.readV k := by
  rw [readV_writeResultAndFlag, if_neg hf, if_neg hx]

/-- An instruction that ends in a result and a flag changes no register but these two, advances `pc` and changes nothing
else. -/
theorem completes_of_writeResultAndFlag (h : exec i s = .next (s.beginExecute.writeResultAndFlag x r c))
    (hP : P (s.beginExecute.writeResultAndFlag x r c)) :
    ∃ t, exec i s = .next t ∧ OnlyRegsAndPc s t ∧ AdvancedQuietly s t ∧ RegsKept [x, 15] s t ∧ P t := by
  refine ⟨_, h, ⟨rfl, fun _ => rfl⟩, ⟨rfl, rfl⟩, fun k hk => ?_, hP⟩
  obtain ⟨hx, hf⟩ := List.ne_and_not_mem_of_not_mem_cons hk
  exact readV_writeResultAndFlag_other hx (List.ne_of_not_mem_cons hf)

/-! ### The result bytes and the flag bytes (R97 to R100, R104) -/

/-- The difference of two bytes, with the modulus added before the subtraction. -/
theorem byte_sub_toNat (a b : Byte) : (a - b).toNat = (a.toNat + 256 - b.toNat) % 256 := by
  have := b.isLt
  rw [BitVec.toNat_sub]
  omega

theorem byte_shiftRight_one_toNat (b : Byte) : (b >>> 1).toNat = b.toNat / 2 := by
  rw [BitVec.toNat_ushiftRight, Nat.shiftRight_one]

theorem byte_shiftLeft_one_toNat (b : Byte) : (b <<< 1).toNat = 2 * b.toNat % 256 := by
  rw [BitVec.toNat_shiftLeft, Nat.shiftLeft_eq, Nat.pow_one, Nat.mul_comm]

/-- The value shifted is `V[Y]` with quirk bit 0 at 1, else `V[X]` (R98, R100). -/
theorem shiftOperand_eq (s : State) (x y : RegNum) :
    s.shiftOperand x y = if s.q.getLsbD 0 then s.readV y else s.readV x := rfl

theorem flagByte_decide (p : Prop) [Decidable p] : flagByte (decide p) = if p then 0x01 else 0x00 := by
  simp only [flagByte, decide_eq_true_eq]

theorem flagByte_toNat : (flagByte c).toNat = c.toNat := by
  cases c <;> rfl

theorem flagByte_bitOutRight_toNat (b : Byte) : (flagByte (bitOutRight b)).toNat = b.toNat % 2 := by
  rw [flagByte_toNat, bitOutRight, BitVec.getLsbD, Nat.toNat_testBit, Nat.pow_zero, Nat.div_one]

theorem flagByte_bitOutLeft_toNat (b : Byte) : (flagByte (bitOutLeft b)).toNat = b.toNat / 128 := by
  have := b.isLt
  rw [flagByte_toNat, bitOutLeft, BitVec.getLsbD, Nat.toNat_testBit]
  omega

/-! ### What an instruction does not name, it leaves alone (R10, R11, R105) -/

theorem withDataRange_readV (h : withDataRange s count word done = .next t) (hdone : done.readV k = s.readV k) :
    t.readV k = s.readV k := by
  rcases withDataRange_cases (s := s) with ⟨-, hw⟩ | ⟨-, hw⟩
  · cases hw.symm.trans h
    exact hdone
  · cases hw.symm.trans h
    rfl

theorem withKeyIndex_readV (h : withKeyIndex s r word done = .next t) (hdone : done.readV k = s.readV k) :
    t.readV k = s.readV k := by
  rcases withKeyIndex_cases (s := s) with ⟨-, hw⟩ | ⟨-, hw⟩
  · cases hw.symm.trans h
    exact hdone
  · cases hw.symm.trans h
    rfl

/-- What a register holds after FX65's loads when it is none of `V[0]` to `V[x]`. -/
theorem loadRegs_above (m : Memory) (a : Nat) (hk : x < k) : (loadRegs m a s.v (x.val + 1))[k] = s.readV k := by
  rw [Fin.getElem_fin, loadRegs_getElem _ _ _ _ _ k.isLt, if_neg (Nat.not_lt.2 (Nat.succ_le_of_lt hk))]
  rfl

/-- FX1E with quirk bit 3 at 1 writes `I` only (R111). -/
theorem exec_addToIndex_of_quirk (h : s.q.getLsbD 3 = true) :
    exec (.opFX1E x) s = .next (s.beginExecute.setI (trunc16 (s.indexSum x))) :=
  congrArg Host.Outcome.next (if_pos h)

/-- FX1E with quirk bit 3 at 0 writes `I` and the flag (R111). -/
theorem exec_addToIndex_of_no_quirk (h : s.q.getLsbD 3 = false) :
    exec (.opFX1E x) s =
      .next ((s.beginExecute.setI (trunc16 (s.indexSum x))).setFlag (indexOverflow (s.indexSum x))) :=
  congrArg Host.Outcome.next (if_neg (Bool.not_eq_true _ ▸ h))

/-- A register that is neither the destination nor a flag written holds what it held. -/
theorem exec_readV_of_not_named (h : exec i s = .next t) (hdest : i.writesReg k = false)
    (hflag : k = 15 → i.producesFlag s = false) : t.readV k = s.readV k := by
  cases i
  case op00EE =>
    rcases List.eq_nil_or_concat' s.stack with hs | ⟨rest, w, hs⟩
    · cases (exec_return_of_empty hs).symm.trans h
      rfl
    · cases (exec_return_of_concat hs).symm.trans h
      rfl
  case op2NNN nnn =>
    by_cases hfull : s.stackDepth = .bounded s.stack.length
    · cases (exec_call_of_full nnn hfull).symm.trans h
      rfl
    · cases (exec_call_of_room nnn hfull).symm.trans h
      rfl
  case op6XNN x _ | op7XNN x _ | op8XY0 x _ | op8XY1 x _ | op8XY2 x _ | op8XY3 x _ | opCXNN x _ | opFX07 x =>
    cases h
    exact readV_writeV_other _ (ne_of_beq_false hdest) _
  case op8XY4 x _ | op8XY5 x _ | op8XY6 x _ | op8XY7 x _ | op8XYE x _ =>
    cases h
    exact readV_writeResultAndFlag_other (ne_of_beq_false hdest) fun hk => Bool.noConfusion (hflag hk)
  case opDXYN x y n =>
    have hk : k ≠ 15 := fun hk => Bool.noConfusion (hflag hk)
    exact withDataRange_readV h (readV_writeV_other _ hk _)
  case opFX0A x =>
    cases h
    cases s.input.released with
    | none => rfl
    | some key => exact readV_writeV_other _ (ne_of_beq_false hdest) _
  case opFX1E x =>
    cases hq : s.q.getLsbD 3 with
    | true =>
      cases (exec_addToIndex_of_quirk hq).symm.trans h
      rfl
    | false =>
      cases (exec_addToIndex_of_no_quirk hq).symm.trans h
      have hk : k ≠ 15 := fun hk => Bool.noConfusion ((congrArg not hq).symm.trans (hflag hk))
      exact readV_writeV_other _ hk _
  case opFX65 x =>
    have hk : x < k := not_le.1 (of_decide_eq_false hdest)
    exact withDataRange_readV h (loadRegs_above _ _ hk)
  case opFX33 x | opFX55 x => exact withDataRange_readV h rfl
  case opEX9E x | opEXA1 x => exact withKeyIndex_readV h rfl
  all_goals
    cases h
    rfl

end

/-! ### An instruction sees nothing of the step's input but what it samples (R101, R148) -/

section
variable {i : Instr} {s t : State} {input : StepInput} {count : Nat} {code : Byte} {word : Word} {done : State}

theorem withDataRange_withInput (h : withDataRange s count word done = .next t) :
    withDataRange { s with input := input } count word { done with input := input } =
      .next { t with input := input } := by
  unfold withDataRange at h ⊢
  cases hr : firstOutOfRange s.i.toNat count with
  | none | some ea =>
    rw [hr] at h
    cases h
    rfl

theorem withKeyIndex_withInput (h : withKeyIndex s code word done = .next t) :
    withKeyIndex { s with input := input } code word { done with input := input } =
      .next { t with input := input } := by
  unfold withKeyIndex at h ⊢
  split_ifs at h ⊢ with hcode
  all_goals
    cases h
    rfl

/-- With another input that agrees on what the instruction samples, the answer is the same with that input in it. -/
theorem exec_withInput (hsame : i.sameInput s.input input) (h : exec i s = .next t) :
    exec i { s with input := input } = .next { t with input := input } := by
  cases i
  case op00EE =>
    rcases List.eq_nil_or_concat' s.stack with hs | ⟨rest, w, hs⟩
    · cases (exec_return_of_empty hs).symm.trans h
      exact exec_return_of_empty hs
    · cases (exec_return_of_concat hs).symm.trans h
      exact exec_return_of_concat hs
  case op2NNN nnn =>
    by_cases hfull : s.stackDepth = .bounded s.stack.length
    · cases (exec_call_of_full nnn hfull).symm.trans h
      exact exec_call_of_full nnn hfull
    · cases (exec_call_of_room nnn hfull).symm.trans h
      exact exec_call_of_room nnn hfull
  case opCXNN x nn =>
    cases h
    have hrnd : s.input.rnd = input.rnd := hsame
    rw [hrnd]
    rfl
  case opEX9E x | opEXA1 x =>
    have hkeys : s.input.keys = input.keys := hsame
    have hpressed : ∀ b, s.keyPressed b = State.keyPressed { s with input := input } b :=
      fun b => congrArg (BitVec.getLsbD · b.toNat) hkeys
    simp only [exec, execEX9E, execEXA1, hpressed] at h
    exact withKeyIndex_withInput h
  case opFX0A x =>
    cases h
    have hreleased : s.input.released = input.released := hsame
    simp only [exec, execFX0A, hreleased]
    cases input.released <;> rfl
  case opFX1E x =>
    cases hq : s.q.getLsbD 3 with
    | true =>
      cases (exec_addToIndex_of_quirk hq).symm.trans h
      exact exec_addToIndex_of_quirk hq
    | false =>
      cases (exec_addToIndex_of_no_quirk hq).symm.trans h
      exact exec_addToIndex_of_no_quirk hq
  case opDXYN _ _ _ | opFX33 x | opFX55 x | opFX65 x => exact withDataRange_withInput h
  all_goals
    cases h
    rfl

theorem sameInput_refl (i : Instr) (input : StepInput) : i.sameInput input input := by
  cases i <;> simp [Instr.sameInput]

/-- No instruction changes the step's input: putting the input back into the answer changes nothing. -/
theorem exec_input (h : exec i s = .next t) : t.input = s.input := by
  have hput : t = { t with input := s.input } :=
    Host.Outcome.next.inj (h.symm.trans (exec_withInput (sameInput_refl i s.input) h))
  rw [hput]

/-- Only CXNN samples the random byte. -/
theorem sameInput_withRnd (input : StepInput) (rnd : Byte) (hi : ∀ x nn, i ≠ .opCXNN x nn) :
    i.sameInput input { input with rnd := rnd } := by
  cases i
  case opCXNN x nn => exact absurd rfl (hi x nn)
  all_goals simp [Instr.sameInput]

end

/-- Settles O18: both end in a write of `V[X]`. -/
theorem immediateLoadAndAdd : Obligations.ImmediateLoadAndAdd := by
  intro s x nn
  refine ⟨decodes_of_formXI 6 rfl rfl, decodes_of_formXI 7 rfl rfl,
    completes_of_writeV rfl ?load, completes_of_writeV rfl ?add⟩
  case load => exact readV_writeV_same _ x nn
  case add => rw [readV_writeV_same, BitVec.toNat_add]

/-- Settles O19: all four end in a write of `V[X]`. -/
theorem copyAndLogic : Obligations.CopyAndLogic := by
  intro s x y
  refine ⟨decodes_of_formXY 8 0 rfl rfl, decodes_of_formXY 8 1 rfl rfl, decodes_of_formXY 8 2 rfl rfl,
    decodes_of_formXY 8 3 rfl rfl, completes_of_writeV rfl ?copy, completes_of_writeV rfl fun k hk => ?or,
    completes_of_writeV rfl fun k hk => ?and, completes_of_writeV rfl fun k hk => ?xor⟩
  case copy => exact readV_writeV_same _ x (s.readV y)
  case or => rw [readV_writeV_same, BitVec.getLsbD_or]
  case and => rw [readV_writeV_same, BitVec.getLsbD_and]
  case xor => rw [readV_writeV_same, BitVec.getLsbD_xor]

/-- Settles O20: the sum is written first and the carry last, from the old operands. -/
theorem addWithCarry : Obligations.AddWithCarry := by
  intro s x y
  refine ⟨decodes_of_formXY 8 4 rfl rfl, completes_of_writeResultAndFlag rfl ⟨fun hx => ?sum, ?carry⟩⟩
  case sum => rw [readV_writeResultAndFlag_result hx, BitVec.toNat_add]
  case carry => exact readV_writeResultAndFlag_flag.trans (flagByte_decide _)

/-- Settles O21: the difference is written first and the flag last, from the old operands. -/
theorem subtractWithStrictFlag : Obligations.SubtractWithStrictFlag := by
  intro s x y
  refine ⟨decodes_of_formXY 8 5 rfl rfl, decodes_of_formXY 8 7 rfl rfl,
    completes_of_writeResultAndFlag rfl ⟨fun hx => ?sub, ?flag⟩,
    completes_of_writeResultAndFlag rfl ⟨fun hx => ?subReverse, ?flagReverse⟩⟩
  case sub | subReverse => rw [readV_writeResultAndFlag_result hx, byte_sub_toNat]
  case flag | flagReverse => exact readV_writeResultAndFlag_flag.trans (flagByte_decide _)

/-- Settles O22: both shift the byte Q selects by one bit and keep the bit that falls out. -/
theorem shiftsByOneBit : Obligations.ShiftsByOneBit := by
  intro s x y
  refine ⟨decodes_of_formXY 8 6 rfl rfl, decodes_of_formXY 8 14 rfl rfl,
    completes_of_writeResultAndFlag rfl ⟨fun hx => ?half, ?bit0⟩,
    completes_of_writeResultAndFlag rfl ⟨fun hx => ?twice, ?bit7⟩⟩
  case half => rw [readV_writeResultAndFlag_result hx, byte_shiftRight_one_toNat, shiftOperand_eq]
  case bit0 => rw [readV_writeResultAndFlag_flag, flagByte_bitOutRight_toNat, shiftOperand_eq]
  case twice => rw [readV_writeResultAndFlag_result hx, byte_shiftLeft_one_toNat, shiftOperand_eq]
  case bit7 => rw [readV_writeResultAndFlag_flag, flagByte_bitOutLeft_toNat, shiftOperand_eq]

/-- Settles O23: CXNN ends in a write of `V[X]`, and no other instruction samples the random byte. -/
theorem maskedRandomByte : Obligations.MaskedRandomByte := by
  refine ⟨fun s x nn => ⟨decodes_of_formXI 12 rfl rfl, completes_of_writeV rfl fun k hk => ?masked⟩,
    fun i s t rnd hi h => ?ignored⟩
  case masked => rw [readV_writeV_same, BitVec.getLsbD_and]
  case ignored =>
    rw [exec_input h]
    exact exec_withInput (sameInput_withRnd s.input rnd hi) h

/-- Settles O43: a register that no case names holds what it held. -/
theorem registersChangeOnlyWhereNamed : Obligations.RegistersChangeOnlyWhereNamed := by
  intro i s t k h hne
  by_contra hnot
  obtain ⟨hdest, hflag⟩ := not_or.1 hnot
  refine hne (exec_readV_of_not_named h (Bool.eq_false_of_not_eq_true hdest) fun hk => ?_)
  exact Bool.eq_false_of_not_eq_true fun hp => hflag ⟨hk, hp⟩

end Sys2Proof.Machine

/-! ## 42_index_memory: the address register and the transfers between registers and memory -/

namespace Sys2Proof.Machine

section
variable {i : Instr} {s : State} {x : RegNum}

/-! ### Form XF as the spec's tables write it (R54) -/

/-- The word of form XF: the fixed nibble and byte, and X in between. -/
theorem formXF_eq_ofNat (n3 jj : Nat) (x : RegNum) :
    formXF n3 x jj = BitVec.ofNat 16 (n3 * 0x1000 + jj + 0x100 * x.val) := by
  rw [formXF, Nat.mul_comm x.val, Nat.add_right_comm]

theorem decodes_of_formXF (n3 jj : Nat) (hi : i.wellFormed = true) (he : encode i = formXF n3 x jj) :
    Decodes (n3 * 0x1000 + jj + 0x100 * x.val) i := by
  rw [Decodes, ← formXF_eq_ofNat, ← he]
  exact decodeWord_encode hi

/-- A transfer of form XF whose last data byte, the one at `I + last`, is out of range reports that with its own
word and does nothing (R117). -/
theorem exec_formXF_outOfRange (n3 jj : Nat) {last : Nat} (he : encode i = formXF n3 x jj)
    (hcount : i.dataCount = last + 1) (h : 0x0FFF < s.i.toNat + last) :
    exec i s = .next (s.faulted .memoryOutOfRange (BitVec.ofNat 16 (n3 * 0x1000 + jj + 0x100 * x.val))
      (max s.i.toNat 0x1000)) := by
  rw [← formXF_eq_ofNat, ← he]
  exact exec_outOfRange fun hin => Nat.not_le.2 h (hin last (hcount ▸ Nat.lt_succ_self last))

/-! ### The values of `I` (R111, R112, R114, R115) -/

/-- No glyph's address reaches 2^16. -/
theorem glyphAddr_toNat (b : Byte) : (glyphAddr b).toNat = 0x0050 + 5 * (b.toNat % 16) := by
  have := Nat.mod_lt b.toNat (by decide : 16 > 0)
  rw [glyphAddr, trunc16, BitVec.toNat_ofNat, Config.fontBase]
  omega

/-- The number of registers moved is added with quirk bit 1 at 1 only; a range in memory ends below 2^16. -/
theorem indexAfter_toNat {count : Nat} (h : s.i.toNat + count ≤ 0x1000) :
    (s.indexAfter count).toNat = s.i.toNat + (if s.q.getLsbD 1 then count else 0) := by
  rw [State.indexAfter, State.ldstIncrementsI]
  split_ifs
  · exact (BitVec.toNat_ofNat _ 16).trans (Nat.mod_eq_of_lt (by omega))
  · rfl

/-! ### Stored and loaded bytes (R39, R113 to R115) -/

section
variable {m : Memory} {a a' k : Nat} {bs : List Byte}

theorem Memory.read_writeBytes_inside (hm : m.wf = true) (ha : a + bs.length ≤ Config.memSize) (hk : k < bs.length) :
    (m.writeBytes a bs).read (a + k) = bs.getD k 0 := by
  rw [Memory.read_writeBytes hm ha, if_pos ⟨Nat.le_add_right a k, Nat.add_lt_add_left hk a⟩,
    Nat.add_sub_cancel_left]

theorem Memory.read_writeBytes_outside (hm : m.wf = true) (ha : a + bs.length ≤ Config.memSize)
    (h : a' < a ∨ a + bs.length ≤ a') : (m.writeBytes a bs).read a' = m.read a' := by
  rw [Memory.read_writeBytes hm ha, if_neg (by omega)]

end

/-- A decimal digit of a byte fits a byte. -/
theorem trunc8_toNat_of_lt {n : Nat} (h : n < 10) : (trunc8 n).toNat = n :=
  (BitVec.toNat_ofNat n 8).trans (Nat.mod_eq_of_lt (by omega))

/-- What FX65 leaves in one of `V[0]` to `V[x]`: the byte at its place in the range. -/
theorem loadRegs_loaded {k : RegNum} (m : Memory) (a : Nat) (v : Vector Byte 16) (hk : k ≤ x) :
    (loadRegs m a v (x.val + 1))[k] = m.read (a + k.val) := by
  rw [Fin.getElem_fin, loadRegs_getElem _ _ _ _ _ k.isLt, if_pos (Nat.lt_succ_of_le hk)]

end

/-- Settles O25: neither the address nor the glyph's address reaches 2^16. -/
theorem indexLoads : Obligations.IndexLoads := by
  intro s x nnn
  exact ⟨decodes_of_encode_toNat rfl (formA_toNat (by decide) nnn), decodes_of_formXF 15 0x29 rfl rfl,
    ⟨_, rfl, rfl, addrOperand_toNat nnn⟩, _, rfl, rfl, glyphAddr_toNat (s.readV x)⟩

/-- Settles O26: quirk bit 3 decides whether the flag is written after `I`. -/
theorem addToIndex : Obligations.AddToIndex := by
  intro s x
  refine ⟨decodes_of_formXF 15 0x1E rfl rfl, ?_⟩
  have hsum : (trunc16 (s.indexSum x)).toNat = (s.i.toNat + (s.readV x).toNat) % 0x10000 := BitVec.toNat_ofNat _ 16
  cases hq : s.q.getLsbD 3 with
  | true => exact ⟨_, exec_addToIndex_of_quirk hq, rfl, hsum, fun _ _ => rfl, nofun, fun _ => rfl⟩
  | false =>
    refine ⟨_, exec_addToIndex_of_no_quirk hq, rfl, hsum, fun k hk => ?kept, fun _ => ?flag, nofun⟩
    case kept => exact readV_writeV_other _ (List.ne_of_not_mem_cons hk) _
    case flag => exact (readV_writeV_same _ 15 _).trans (flagByte_decide _)

/-- Settles O27: the three digits are one run of stored bytes. -/
theorem storeDecimalDigits : Obligations.StoreDecimalDigits := by
  intro s x hm
  refine ⟨decodes_of_formXF 15 0x33 rfl rfl,
    fun hout => exec_formXF_outOfRange 15 0x33 (last := 2) rfl rfl (by omega), fun hin => ?_⟩
  have hx := (s.readV x).isLt
  have hend : s.i.toNat + (bcdDigits (s.readV x)).length ≤ Config.memSize := Nat.add_le_add_right hin 3
  have hdigit (k : Nat) (hk : k < 3) : (s.mem.writeBytes s.i.toNat (bcdDigits (s.readV x))).read (s.i.toNat + k) =
      (bcdDigits (s.readV x)).getD k 0 := Memory.read_writeBytes_inside hm hend hk
  refine ⟨_, withDataRange_inRange hend, rfl, ?hundreds, ?tens, ?ones, fun a ha => ?kept⟩
  case hundreds => exact (congrArg BitVec.toNat (hdigit 0 (by decide))).trans (trunc8_toNat_of_lt (by omega))
  case tens => exact (congrArg BitVec.toNat (hdigit 1 (by decide))).trans (trunc8_toNat_of_lt (by omega))
  case ones => exact (congrArg BitVec.toNat (hdigit 2 (by decide))).trans (trunc8_toNat_of_lt (by omega))
  case kept => exact Memory.read_writeBytes_outside hm hend ha

/-- Settles O28: the registers stored are one run of bytes. -/
theorem storeRegisters : Obligations.StoreRegisters := by
  intro s x hm
  refine ⟨decodes_of_formXF 15 0x55 rfl rfl, exec_formXF_outOfRange 15 0x55 rfl rfl, fun hin => ?_⟩
  have hrange : s.i.toNat + (x.val + 1) ≤ 0x1000 := Nat.succ_le_succ hin
  have hend : s.i.toNat + (s.firstRegs x).length ≤ Config.memSize := by rwa [firstRegs_length]
  refine ⟨_, withDataRange_inRange hrange, rfl, indexAfter_toNat hrange, fun k hk => ?stored, fun a ha => ?kept⟩
  case stored =>
    have hlt : k.val < (s.firstRegs x).length := by rwa [firstRegs_length, Nat.lt_succ_iff]
    exact (Memory.read_writeBytes_inside hm hend hlt).trans (firstRegs_getD s x k hk)
  case kept => exact Memory.read_writeBytes_outside hm hend (by rwa [firstRegs_length])

/-- Settles O29: the loads are one run of register writes, and they leave memory alone. -/
theorem loadRegisters : Obligations.LoadRegisters := by
  intro s x
  refine ⟨decodes_of_formXF 15 0x65 rfl rfl, exec_formXF_outOfRange 15 0x65 rfl rfl, fun hin => ?_⟩
  have hrange : s.i.toNat + (x.val + 1) ≤ 0x1000 := Nat.succ_le_succ hin
  exact ⟨_, withDataRange_inRange hrange, rfl, indexAfter_toNat hrange,
    fun k hk => loadRegs_loaded s.mem s.i.toNat s.v hk, fun k hk => loadRegs_above s.mem s.i.toNat hk, fun _ => rfl⟩

end Sys2Proof.Machine

/-! ## 43_display: what 00E0 and DXYN do to the pixels, and who asks for a redraw -/

namespace Sys2Proof.Machine

section
variable {s : State} {x y : RegNum} {n count : Nat} {word : Word} {done : State}

/-- With every data byte in memory, the checked instruction completes; there may be none (R40). -/
theorem withDataRange_of_inRange (h : s.InRange count) : withDataRange s count word done = .next done := by
  rcases inRange_iff.1 h with rfl | hin
  · rfl
  · exact withDataRange_inRange hin

/-! ### The sprite's bits on the screen (R129, R130) -/

/-- Row `r` of the sprite is the byte at `I + r`. -/
theorem spriteBytes_getD {r : Nat} (hr : r < n) : (s.spriteBytes n).getD r 0 = s.mem.read (s.i.toNat + r) := by
  have hlt : r < (s.mem.readBytes s.i.toNat n).length := by rwa [Memory.readBytes_length]
  exact (List.getD_eq_getElem _ 0 hlt).trans (Memory.readBytes_getElem _ _ _ _ hlt)

/-- The rows DXYN draws have a 1 bit over a display position exactly where the spec's sprite has an unclipped one. -/
theorem rowsHave_spriteBytes (s : State) (x y : RegNum) (n : Nat) (px : Fin 64) (py : Fin 32) :
    rowsHave (s.spriteX x) (s.spriteY y) (s.spriteBytes n) px py = s.spriteHas x y n px py := by
  have hlen : (s.spriteBytes n).length = n := Memory.readBytes_length _ _ _
  unfold rowsHave State.spriteHas
  rw [hlen, ← State.spriteX, ← State.spriteY]
  by_cases hrow : s.spriteY y ≤ py.val ∧ py.val < s.spriteY y + n
  · rw [spriteBytes_getD (by omega)]
  · simp only [← Bool.decide_and, hrow, decide_false, Bool.and_false, Bool.false_and]

/-! ### The drawing of a sprite (R128, R131) -/

/-- The pixels and the collision bit after DXYN has drawn its sprite. -/
def State.drawing (s : State) (x y : RegNum) (n : Nat) : Drawing :=
  drawRows (s.spriteX x) (s.spriteY y) (s.spriteBytes n) ⟨s.disp, false⟩

theorem drawing_getPixel (s : State) (x y : RegNum) (n : Nat) (px : Fin 64) (py : Fin 32) :
    (s.drawing x y n).disp.getPixel px py = (s.disp.getPixel px py ^^ s.spriteHas x y n px py) := by
  rw [State.drawing, drawRows_getPixel, rowsHave_spriteBytes]

/-- A drawing collides exactly when it turns a pixel off. -/
theorem drawing_hit : (s.drawing x y n).hit = true ↔
    ∃ px py, s.disp.getPixel px py = true ∧ (s.drawing x y n).disp.getPixel px py = false := by
  have hbit (on bit : Bool) : bit = true ∧ on = true ↔ on = true ∧ (on ^^ bit) = false := by
    cases on <;> cases bit <;> decide
  calc (s.drawing x y n).hit = true
    _ ↔ ∃ px py, s.spriteHas x y n px py = true ∧ s.disp.getPixel px py = true := by
      simp only [State.drawing, drawRows_hit, rowsHave_spriteBytes, Bool.false_eq_true, false_or]
    _ ↔ ∃ px py, s.disp.getPixel px py = true ∧ (s.drawing x y n).disp.getPixel px py = false := by
      simp only [drawing_getPixel, hbit]

/-- In range, DXYN writes the drawing's pixels and its collision bit, and asks for a redraw. -/
theorem exec_draw_of_inRange (h : s.InRange n) : exec (.opDXYN x y n) s =
    .next ((s.beginExecute.setDisp (s.drawing x y n).disp).setFlag (s.drawing x y n).hit).requestRedraw :=
  withDataRange_of_inRange h

end

/-- Settles O34: the pixels and the flag are those of the drawing, which changes nothing else. -/
theorem drawXorsTheSprite : Obligations.DrawXorsTheSprite := by
  intro s x y n
  refine ⟨fun hn => ?decodes, exec_outOfRange (i := .opDXYN x y n), fun hin =>
    ⟨_, exec_draw_of_inRange hin, rfl, fun k hk => ?kept, drawing_getPixel s x y n, fun hoff => ?collision,
      fun hoff => ?noCollision, fun _ => rfl⟩⟩
  case decodes =>
    exact decodes_of_encode_toNat (decide_eq_true hn) ((formXY_toNat (by decide) hn x y).trans (by omega))
  case kept => exact readV_writeV_other _ (List.ne_of_not_mem_cons hk) _
  case collision => exact (readV_writeV_same _ 15 _).trans (flagByte_eq_one.2 (drawing_hit.2 hoff))
  case noCollision =>
    refine (readV_writeV_same _ 15 _).trans (flagByte_eq_zero.2 (Bool.eq_false_of_not_eq_true fun hhit => ?_))
    exact hoff (drawing_hit.1 hhit)

/-- Settles O48: an instruction completes or latches its fault. -/
theorem redrawIsAskedForByDisplayInstructions : Obligations.RedrawIsAskedForByDisplayInstructions := by
  intro i s t h
  rcases exec_cases h with ⟨hredraw, hfault, -, -⟩ | ⟨c, n, rfl, -⟩
  · exact .inl ⟨hredraw, hfault⟩
  · exact .inr ⟨faulted_redraw c (encode i) n, Option.some_ne_none _⟩

/-- Settles O33: the cleared display is blank, and nothing but it, `pc` and the output is written. -/
theorem clearTurnsEveryPixelOff : Obligations.ClearTurnsEveryPixelOff :=
  ⟨decodes_of_encode_toNat (i := .op00E0) rfl rfl, fun s => ⟨_, rfl, rfl, Display.getPixel_clearScreen s.disp⟩⟩

end Sys2Proof.Machine

/-! ## 44_keypad_timers: the key skips, the wait for a key, the timers and the step's inputs -/

namespace Sys2Proof.Machine

section
variable {i : Instr} {s t : State} {x : RegNum} {code : Byte} {count : Nat} {word : Word} {done : State}

/-! ### The key skips (R140, R141, R147) -/

theorem withKeyIndex_of_le (h : code.toNat ≤ 15) : withKeyIndex s code word done = .next done :=
  if_neg (Nat.not_lt.2 h)

theorem withKeyIndex_of_gt (h : 15 < code.toNat) :
    withKeyIndex s code word done = .next (s.faulted .keyIndexOutOfRange word code.toNat) :=
  if_pos h

/-- An instruction of form XF that checks the key code in `V[x]` reports a code above 15 with its own word. -/
theorem exec_formXF_keyOutOfRange (n3 jj : Nat) (he : encode i = formXF n3 x jj)
    (hexec : exec i s = withKeyIndex s (s.readV x) (encode i) done) (h : 15 < (s.readV x).toNat) :
    exec i s = .next (s.faulted .keyIndexOutOfRange (BitVec.ofNat 16 (n3 * 0x1000 + jj + 0x100 * x.val))
      (s.readV x).toNat) := by
  rw [← formXF_eq_ofNat, ← he, hexec]
  exact withKeyIndex_of_gt h

/-- Skip when the condition fails: EXA1. -/
theorem beginExecute_skipIf_not (c : Bool) :
    s.beginExecute.skipIf (!c) = { s with pc := if c then s.pc + 2 else s.pc + 4, redraw := some false } := by
  rw [beginExecute_skipIf]
  cases c <;> rfl

/-! ### The wait for a key release (R144) -/

/-- With no released key the counter goes back to the instruction, so only the output differs. -/
theorem exec_waitForKey_of_none (h : s.input.released = none) :
    exec (.opFX0A x) s = .next { s with redraw := some false } := by
  simp only [exec, execFX0A, h]
  exact congrArg (fun p => Host.Outcome.next { s with pc := p, redraw := some false })
    (BitVec.add_sub_cancel s.pc 2)

theorem exec_waitForKey_of_some {key : Fin 16} (h : s.input.released = some key) :
    exec (.opFX0A x) s = .next (s.beginExecute.writeV x (trunc8 key.val)) := by
  simp only [exec, execFX0A, h]

/-- A key code fits in a byte. -/
theorem trunc8_key_toNat (key : Fin 16) : (trunc8 key.val).toNat = key.val :=
  (BitVec.toNat_ofNat _ 8).trans (Nat.mod_eq_of_lt (key.isLt.trans (by decide)))

/-! ### No instruction but FX07, FX15 and FX18 sees or changes a timer (R142, R145, R146) -/

/-- A range-checked completion commutes with a change of the state that leaves `I` alone and does not meddle with the
latch. -/
theorem withDataRange_map (u : State → State) (hi : (u s).i = s.i)
    (hfaulted : ∀ c w n, (u s).faulted c w n = u (s.faulted c w n)) (h : withDataRange s count word done = .next t) :
    withDataRange (u s) count word (u done) = .next (u t) := by
  unfold withDataRange at h ⊢
  rw [hi]
  cases hr : firstOutOfRange s.i.toNat count with
  | none =>
    rw [hr] at h
    cases h
    rfl
  | some ea =>
    rw [hr] at h
    cases h
    exact congrArg Host.Outcome.next (hfaulted _ _ _)

/-- A key-checked completion commutes with a change of the state that does not meddle with the latch. -/
theorem withKeyIndex_map (u : State → State) (hfaulted : ∀ c w n, (u s).faulted c w n = u (s.faulted c w n))
    (h : withKeyIndex s code word done = .next t) : withKeyIndex (u s) code word (u done) = .next (u t) := by
  rcases Nat.lt_or_ge 15 code.toNat with hcode | hcode
  · cases (withKeyIndex_of_gt hcode).symm.trans h
    rw [withKeyIndex_of_gt hcode, hfaulted]
  · cases (withKeyIndex_of_le hcode).symm.trans h
    exact withKeyIndex_of_le hcode

/-- An instruction that is none of the three for the timers gives the same answer whatever the timers hold, with these
timers in it. -/
theorem exec_setTimers (p : Byte × Byte) (h07 : ∀ x, i ≠ .opFX07 x) (h15 : ∀ x, i ≠ .opFX15 x)
    (h18 : ∀ x, i ≠ .opFX18 x) (h : exec i s = .next t) : exec i (s.setTimers p) = .next (t.setTimers p) := by
  cases i
  case opFX07 x => exact absurd rfl (h07 x)
  case opFX15 x => exact absurd rfl (h15 x)
  case opFX18 x => exact absurd rfl (h18 x)
  case op00EE =>
    rcases List.eq_nil_or_concat' s.stack with hs | ⟨rest, w, hs⟩
    · cases (exec_return_of_empty hs).symm.trans h
      exact exec_return_of_empty hs
    · cases (exec_return_of_concat hs).symm.trans h
      exact exec_return_of_concat hs
  case op2NNN nnn =>
    by_cases hfull : s.stackDepth = .bounded s.stack.length
    · cases (exec_call_of_full nnn hfull).symm.trans h
      exact exec_call_of_full nnn hfull
    · cases (exec_call_of_room nnn hfull).symm.trans h
      exact exec_call_of_room nnn hfull
  case opFX0A x =>
    cases hr : s.input.released with
    | none =>
      cases (exec_waitForKey_of_none hr).symm.trans h
      exact exec_waitForKey_of_none hr
    | some key =>
      cases (exec_waitForKey_of_some hr).symm.trans h
      exact exec_waitForKey_of_some hr
  case opFX1E x =>
    cases hq : s.q.getLsbD 3 with
    | true =>
      cases (exec_addToIndex_of_quirk hq).symm.trans h
      exact exec_addToIndex_of_quirk hq
    | false =>
      cases (exec_addToIndex_of_no_quirk hq).symm.trans h
      exact exec_addToIndex_of_no_quirk hq
  case opEX9E x | opEXA1 x => exact withKeyIndex_map (·.setTimers p) (fun _ _ _ => rfl) h
  case opDXYN _ _ _ | opFX33 x | opFX55 x | opFX65 x =>
    exact withDataRange_map (·.setTimers p) rfl (fun _ _ _ => rfl) h
  all_goals
    cases h
    rfl

/-- So such an instruction keeps both timers: putting them back into the answer changes nothing. -/
theorem exec_timers (h07 : ∀ x, i ≠ .opFX07 x) (h15 : ∀ x, i ≠ .opFX15 x) (h18 : ∀ x, i ≠ .opFX18 x)
    (h : exec i s = .next t) : t.dt = s.dt ∧ t.st = s.st := by
  have hput : t = t.setTimers (s.dt, s.st) :=
    Host.Outcome.next.inj (h.symm.trans (exec_setTimers (s.dt, s.st) h07 h15 h18 h))
  rw [hput]
  exact ⟨rfl, rfl⟩

/-- FX15 alone changes the delay timer: FX07 and FX18 only write elsewhere. -/
theorem exec_dt (h15 : ∀ x, i ≠ .opFX15 x) (h : exec i s = .next t) : t.dt = s.dt := by
  cases i
  case opFX15 x => exact absurd rfl (h15 x)
  case opFX07 x | opFX18 x =>
    cases h
    rfl
  all_goals refine (exec_timers ?_ ?_ ?_ h).1 <;> nofun

/-- FX18 alone sees the sound timer: FX07 and FX15 read and write elsewhere. -/
theorem exec_setSt (b : Byte) (h18 : ∀ x, i ≠ .opFX18 x) (h : exec i s = .next t) :
    exec i (s.setSt b) = .next (t.setSt b) := by
  cases i
  case opFX18 x => exact absurd rfl (h18 x)
  case opFX07 x | opFX15 x =>
    cases h
    rfl
  all_goals
    change exec _ (s.setTimers (s.dt, b)) = .next (t.setTimers (t.dt, b))
    rw [exec_dt (by nofun) h]
    refine exec_setTimers (s.dt, b) ?_ ?_ ?_ h <;> nofun

end

/-- Settles O36: the check of the key code decides between the fault and a skip on the key's flag. -/
theorem keySkips : Obligations.KeySkips := by
  intro s x
  refine ⟨decodes_of_formXF 0xE 0x9E rfl rfl, decodes_of_formXF 0xE 0xA1 rfl rfl, fun hout => ?fault, fun hin => ?skip⟩
  case fault => exact ⟨exec_formXF_keyOutOfRange 0xE 0x9E rfl rfl hout, exec_formXF_keyOutOfRange 0xE 0xA1 rfl rfl hout⟩
  case skip =>
    exact ⟨(withKeyIndex_of_le hin).trans (congrArg Host.Outcome.next (beginExecute_skipIf _)),
      (withKeyIndex_of_le hin).trans (congrArg Host.Outcome.next (beginExecute_skipIf_not _))⟩

/-- Settles O37: with no released key only the output is written, and the fetch does not read it. -/
theorem waitForKeyRelease : Obligations.WaitForKeyRelease := by
  intro s x
  refine ⟨decodes_of_formXF 0xF 0x0A rfl rfl, fun hnone => ⟨exec_waitForKey_of_none hnone, rfl⟩,
    fun key hkey => completes_of_writeV (exec_waitForKey_of_some hkey) ?_⟩
  rw [readV_writeV_same, trunc8_key_toNat]

/-- Settles O38: FX07 ends in a write of `V[X]`, and only FX15 sets the delay timer. -/
theorem delayTimerInstructions : Obligations.DelayTimerInstructions := by
  refine ⟨fun s x => ⟨decodes_of_formXF 0xF 0x07 rfl rfl, decodes_of_formXF 0xF 0x15 rfl rfl,
    completes_of_writeV rfl (readV_writeV_same _ x s.dt), rfl⟩, fun i s t h hne => ?_⟩
  by_contra hnot
  exact hne (exec_dt (not_exists.1 hnot) h)

/-- Settles O39: every other instruction commutes with a change of the sound timer. -/
theorem soundTimerIsSetAndNeverRead : Obligations.SoundTimerIsSetAndNeverRead :=
  ⟨fun _ _ => ⟨decodes_of_formXF 0xF 0x18 rfl rfl, rfl⟩, fun _ _ _ b h18 h => exec_setSt b h18 h⟩

/-- Settles O41: an instruction sees only what it samples, and both ways to make a step write the input first. -/
theorem inputsReachOnlyTheirInstructions : Obligations.InputsReachOnlyTheirInstructions :=
  ⟨fun _ _ _ _ hsame h => exec_withInput hsame h, fun _ _ => ⟨rfl, fun _ => rfl⟩⟩

end Sys2Proof.Machine

/-! ## 60_exceptions: the halted core (R167) and the driver's timer operations (R176 to R178) -/

namespace Sys2Proof.Machine

section
variable {s t : State} {r : FaultRecord}

/-! ### What an operation of the driver can do (R185) -/

theorem cycle_of_fault (h : s.fault = some r) : cycle s = .fault (.halted r) := by
  unfold cycle
  rw [h]

theorem perform_step_of_fault (input : StepInput) (h : s.fault = some r) :
    perform (.step input) s = .fault (.halted r) := cycle_of_fault h

theorem perform_timer_of_loaded (op : TimerOp) (h : s.loaded = true) :
    perform (.timer op) s = .next (s.timerOp op) := if_pos h

theorem perform_readTimer_of_loaded (which : Timer) (h : s.loaded = true) :
    perform (.readTimer which) s = .next s := if_pos h

/-- A timer operation or a timer read that goes on was not refused for want of a load (R185, R198). -/
theorem guarded_next {c : Bool} {u : State} {refusal : Refusal}
    (h : (if c then .next u else .refused refusal : Host.Outcome State Fault Refusal) = .next t) :
    c = true ∧ t = u := by
  split_ifs at h with hc
  exact ⟨hc, (Host.Outcome.next.inj h).symm⟩

/-- A load that goes on is the first one, of a program that fits (R197, R198). -/
theorem load_next {bytes : List Byte} (h : load bytes s = .next t) :
    s.loaded = false ∧ bytes.length ≤ Config.progMax ∧
      t = { s with mem := s.mem.writeBytes Config.progBase bytes, loaded := true } := by
  unfold load at h
  split_ifs at h with hloaded hlong
  exact ⟨Bool.eq_false_of_not_eq_true hloaded, Nat.le_of_not_lt hlong, (Host.Outcome.next.inj h).symm⟩

/-- A recorded fault outlives every operation but reset: a step does not go on, and the others do not touch the latch. -/
theorem perform_keeps_fault {op : DriverOp} (hfault : s.fault = some r) (h : perform op s = .next t) :
    t.fault = some r ∨ ∃ p, op = .reset p := by
  cases op with
  | reset p => exact .inr ⟨p, rfl⟩
  | load bytes =>
    obtain ⟨-, -, rfl⟩ := load_next h
    exact .inl hfault
  | step input => cases (perform_step_of_fault input hfault).symm.trans h
  | timer op =>
    obtain ⟨-, rfl⟩ := guarded_next h
    exact .inl hfault
  | readTimer which =>
    obtain ⟨-, rfl⟩ := guarded_next h
    exact .inl hfault

theorem not_finished_of_fault (h : s.fault = some r) : ¬ s.Finished := by
  rintro ⟨⟨hnone, -⟩, -⟩
  cases h.symm.trans hnone

/-- The saturating decrement is the truncated one of the naturals (R176, R177). -/
theorem tickByte_toNat (b : Byte) : (tickByte b).toNat = b.toNat - 1 := by
  unfold tickByte
  split_ifs with hzero
  · rw [hzero]
    rfl
  · bv_omega

end

/-- Settles O9: a set latch stops every step, and no other operation but reset looks at it or writes it. -/
theorem haltedCoreKeepsItsFault : Obligations.HaltedCoreKeepsItsFault := by
  intro s r hfault
  exact ⟨cycle_of_fault hfault, not_finished_of_fault hfault, fun input => perform_step_of_fault input hfault,
    fun hloaded op => ⟨_, perform_timer_of_loaded op hloaded, rfl, rfl⟩,
    fun hloaded which => perform_readTimer_of_loaded which hloaded,
    fun _ _ h => perform_keeps_fault hfault h⟩

/-- Settles O40: on a loaded core each timer operation is its effect on the pair of timers. -/
theorem timerTicksSaturate : Obligations.TimerTicksSaturate := by
  intro s hloaded
  exact ⟨⟨_, perform_timer_of_loaded .tickDelay hloaded, rfl, tickByte_toNat s.dt⟩,
    ⟨_, perform_timer_of_loaded .tickSound hloaded, rfl, tickByte_toNat s.st⟩,
    fun b => ⟨perform_timer_of_loaded (.writeTimer .delay b) hloaded,
      perform_timer_of_loaded (.writeTimer .sound b) hloaded, rfl, rfl⟩⟩

end Sys2Proof.Machine

/-! ## 70_reset_and_hazards: reset (R190, R192), load (R197) and the order of the operations (R198) -/

namespace Sys2Proof.Machine

/-! ### What a step answers (R52, R198) -/

/-- `t` belongs to the session of `s`: the same configuration, and the load done in both or in neither (R5, R21, R198). -/
def State.SameSession (s t : State) : Prop :=
  t.q = s.q ∧ t.stackDepth = s.stackDepth ∧ t.loaded = s.loaded

section
variable {s t : State} {count : Nat} {code : Byte} {word : Word} {done : State}

theorem sameSession_faulted (s : State) (c : FaultCause) (w : Word) (n : Nat) :
    s.SameSession (s.faulted c w n) := ⟨rfl, rfl, rfl⟩

theorem withDataRange_answers (hdone : s.SameSession done) :
    ∃ t, withDataRange s count word done = .next t ∧ s.SameSession t := by
  rcases withDataRange_cases (s := s) with ⟨-, hw⟩ | ⟨-, hw⟩
  · exact ⟨_, hw, hdone⟩
  · exact ⟨_, hw, sameSession_faulted s _ _ _⟩

theorem withKeyIndex_answers (hdone : s.SameSession done) :
    ∃ t, withKeyIndex s code word done = .next t ∧ s.SameSession t := by
  rcases withKeyIndex_cases (s := s) with ⟨-, hw⟩ | ⟨-, hw⟩
  · exact ⟨_, hw, hdone⟩
  · exact ⟨_, hw, sameSession_faulted s _ _ _⟩

/-- Every instruction answers a next state, and it stays in the session. -/
theorem exec_answers (i : Instr) (s : State) : ∃ t, exec i s = .next t ∧ s.SameSession t := by
  cases i
  case op00EE =>
    rcases List.eq_nil_or_concat' s.stack with hs | ⟨rest, w, hs⟩
    · exact ⟨_, exec_return_of_empty hs, sameSession_faulted s _ _ _⟩
    · exact ⟨_, exec_return_of_concat hs, rfl, rfl, rfl⟩
  case op2NNN nnn =>
    by_cases hfull : s.stackDepth = .bounded s.stack.length
    · exact ⟨_, exec_call_of_full nnn hfull, sameSession_faulted s _ _ _⟩
    · exact ⟨_, exec_call_of_room nnn hfull, rfl, rfl, rfl⟩
  case opFX0A x =>
    cases hr : s.input.released with
    | none => exact ⟨_, exec_waitForKey_of_none hr, rfl, rfl, rfl⟩
    | some key => exact ⟨_, exec_waitForKey_of_some hr, rfl, rfl, rfl⟩
  case opFX1E x =>
    cases hq : s.q.getLsbD 3 with
    | true => exact ⟨_, exec_addToIndex_of_quirk hq, rfl, rfl, rfl⟩
    | false => exact ⟨_, exec_addToIndex_of_no_quirk hq, rfl, rfl, rfl⟩
  case opEX9E x | opEXA1 x => exact withKeyIndex_answers ⟨rfl, rfl, rfl⟩
  case opDXYN _ _ _ | opFX33 x | opFX55 x | opFX65 x => exact withDataRange_answers ⟨rfl, rfl, rfl⟩
  all_goals exact ⟨_, rfl, rfl, rfl, rfl⟩

/-- So does the fetch with what follows it: a fetch fault, a decode fault or the decoded instruction. -/
theorem fetchExecute_answers (s : State) : ∃ t, fetchExecute s = .next t ∧ s.SameSession t := by
  unfold fetchExecute
  cases s.fetchWord with
  | none => exact ⟨_, raise_eq, sameSession_faulted s _ _ _⟩
  | some op =>
    cases hdecode : decodeWord op with
    | error e =>
      simp only [hdecode]
      exact ⟨_, raise_eq, sameSession_faulted s _ _ _⟩
    | ok i =>
      simp only [hdecode]
      exact exec_answers i s

theorem cycle_of_unloaded (hfault : s.fault = none) (hloaded : s.loaded = false) :
    cycle s = .refused .stepBeforeLoad := by
  unfold cycle
  rw [hfault]
  exact if_neg (Bool.not_eq_true _ ▸ hloaded)

theorem cycle_of_running (hfault : s.fault = none) (hloaded : s.loaded = true) : cycle s = fetchExecute s := by
  unfold cycle
  rw [hfault]
  exact if_pos hloaded

/-- A loaded core's cycle is never refused: it returns the recorded fault or goes on. -/
theorem cycle_ne_refused (hloaded : s.loaded = true) (r : Refusal) : cycle s ≠ .refused r := by
  intro h
  cases hfault : s.fault with
  | some record => cases (cycle_of_fault hfault).symm.trans h
  | none =>
    obtain ⟨t, ht, -⟩ := fetchExecute_answers s
    cases ((cycle_of_running hfault hloaded).trans ht).symm.trans h

/-- A cycle that goes on stays in the session. -/
theorem sameSession_of_cycle (h : cycle s = .next t) : s.SameSession t := by
  obtain ⟨hfault, hloaded, -⟩ := cycle_next_cases h
  obtain ⟨u, hu, hsame⟩ := fetchExecute_answers s
  cases ((cycle_of_running hfault hloaded).trans hu).symm.trans h
  exact hsame

end

/-! ### What `load` answers (R197, R198) -/

section
variable {s : State} {bytes : List Byte}

theorem perform_load_of_loaded (h : s.loaded = true) : perform (.load bytes) s = .refused .loadAfterLoad := if_pos h

theorem perform_load_of_long (h : s.loaded = false) (hlong : 3584 < bytes.length) :
    perform (.load bytes) s = .fault .loadError :=
  (if_neg (Bool.not_eq_true _ ▸ h)).trans (if_pos hlong)

theorem perform_load_of_fits (h : s.loaded = false) (hfits : bytes.length ≤ 3584) :
    perform (.load bytes) s = .next { s with mem := s.mem.writeBytes 0x200 bytes, loaded := true } :=
  (if_neg (Bool.not_eq_true _ ▸ h)).trans (if_neg (Nat.not_lt.2 hfits))

/-- A program that fits ends inside the memory. -/
theorem program_end_le (hfits : bytes.length ≤ 3584) : 0x200 + bytes.length ≤ Config.memSize :=
  Nat.add_le_add_left hfits 0x200

end

/-! ### The memory after reset (R31, R190) -/

/-- Outside the font the reset contents are 0. -/
theorem resetByte_outside_font {a : Nat} (h : a < 0x050 ∨ 0x09F < a) : resetByte a = 0x00 := by
  unfold resetByte
  split_ifs with hbase
  · have hpast : defaultFont.length ≤ a - Config.fontBase := by
      change 80 ≤ a - 0x050
      change 0x050 ≤ a at hbase
      omega
    exact List.getD_eq_default _ _ hpast
  · rfl

/-- The font ends inside the memory. -/
theorem font_end_le (p : Params) : Config.fontBase + p.font.toList.length ≤ Config.memSize := by
  rw [Vector.length_toList]
  decide

theorem resetWith_read_font (p : Params) (k : Fin 80) :
    (State.resetWith p).mem.read (0x050 + k.val) = p.font[k] := by
  have hk : k.val < p.font.toList.length := by rw [Vector.length_toList]; exact k.isLt
  calc (State.resetWith p).mem.read (0x050 + k.val)
      = p.font.toList.getD k.val 0 := Memory.read_writeBytes_inside Memory.nil_wf (font_end_le p) hk
    _ = p.font[k] := by rw [List.getD_eq_getElem _ _ hk, Vector.getElem_toList]; rfl

theorem resetWith_read_outside_font (p : Params) {a : Nat} (h : a < 0x050 ∨ 0x09F < a) :
    (State.resetWith p).mem.read a = 0x00 := by
  have houtside : a < Config.fontBase ∨ Config.fontBase + p.font.toList.length ≤ a := by
    rw [Vector.length_toList]
    exact h
  calc (State.resetWith p).mem.read a
      = resetByte a := Memory.read_writeBytes_outside Memory.nil_wf (font_end_le p) houtside
    _ = 0x00 := resetByte_outside_font h

theorem resetWith_readV (p : Params) (k : RegNum) : (State.resetWith p).readV k = 0x00 :=
  Vector.getElem_replicate k.isLt

/-- Valid parameters start the sound timer at a nonzero value (R5). -/
theorem soundTimerReset_ne_zero {p : Params} (h : p.valid = true) : p.soundTimerReset ≠ 0x00 := by
  unfold Params.valid at h
  exact bne_iff_ne.1 (Bool.and_eq_true_iff.1 h).1

/-- Settles O10: which of the operations go on is decided by the bit `loaded`, which `load` sets and a step keeps. -/
theorem operationsOutOfOrderAreRefused : Obligations.OperationsOutOfOrderAreRefused := by
  refine ⟨fun s hloaded hfault => ?earlyStep, fun s bytes hloaded => perform_load_of_loaded hloaded,
    fun s t bytes h => ?load, fun s t h => ?step, fun s hloaded => ⟨?goesOn, ?timers⟩⟩
  case earlyStep => exact cycle_of_unloaded (s := s.takeTurn) hfault hloaded
  case load =>
    obtain ⟨hloaded, -, rfl⟩ := load_next h
    exact ⟨hloaded, rfl⟩
  case step =>
    rw [step_eq] at h
    obtain ⟨-, hloaded, -⟩ := cycle_next_cases h
    obtain ⟨-, -, hkept⟩ := sameSession_of_cycle h
    exact ⟨hloaded, hkept.trans hloaded⟩
  case goesOn => exact cycle_ne_refused (s := s.takeTurn) hloaded
  case timers => exact fun op => ⟨_, perform_timer_of_loaded op hloaded⟩

/-- Settles O52: reset answers its own state whatever stood before, and its memory is the font over zeros. -/
theorem resetLeavesTheResetState : Obligations.ResetLeavesTheResetState := fun _ p =>
  ⟨State.resetWith p, rfl, resetWith_readV p, rfl, rfl, rfl, rfl, rfl, soundTimerReset_ne_zero,
    resetWith_read_font p, fun _ h => resetWith_read_outside_font p h, rfl, rfl, rfl⟩

/-- Settles O53: the load of a program that fits is a run of stored bytes inside the memory. -/
theorem loadPlacesTheProgram : Obligations.LoadPlacesTheProgram := by
  intro s bytes hloaded hwf
  refine ⟨perform_load_of_long hloaded, fun hfits => ⟨_, perform_load_of_fits hloaded hfits, rfl, ?placed, ?kept⟩⟩
  case placed => exact fun k hk => Memory.read_writeBytes_inside hwf (program_end_le hfits) hk
  case kept => exact fun a ha => Memory.read_writeBytes_outside hwf (program_end_le hfits) ha

end Sys2Proof.Machine

/-! ## 30_encoding: encode and decode are inverse, and the tree agrees with the table (R54 to R56) -/

namespace Sys2Proof

/-! ### A word is its form on its own fields (R51, R54) -/

section
variable {w : Word} {k j jj : Nat}

theorem formA_fields (hk : fieldN3 w = k) : formA k (fieldNNN w) = w := by
  rw [fieldN3_eq_div] at hk
  apply BitVec.eq_of_toNat_eq
  rw [formA_toNat (by omega), fieldNNN_toNat]
  omega

theorem formXI_fields (hk : fieldN3 w = k) : formXI k (fieldX w) (fieldNN w) = w := by
  rw [fieldN3_eq_div] at hk
  apply BitVec.eq_of_toNat_eq
  rw [formXI_toNat (by omega), fieldX_val, fieldNN_toNat]
  omega

theorem formXY_fields (hk : fieldN3 w = k) (hj : fieldN w = j) : formXY k (fieldX w) (fieldY w) j = w := by
  rw [fieldN3_eq_div] at hk
  unfold fieldN at hj
  apply BitVec.eq_of_toNat_eq
  rw [formXY_toNat (by omega) (by omega), fieldX_val, fieldY_val]
  omega

theorem formXF_fields (hk : fieldN3 w = k) (hjj : (fieldNN w).toNat = jj) : formXF k (fieldX w) jj = w := by
  rw [fieldN3_eq_div] at hk
  rw [fieldNN_toNat] at hjj
  apply BitVec.eq_of_toNat_eq
  rw [formXF_toNat (by omega) (by omega), fieldX_val]
  omega

end

/-! ### Each family decodes to instructions that encode back (R56) -/

/-- `i` is an instruction, and `w` is its word. -/
def IsWordOf (w : Word) (i : Instr) : Prop := encode i = w ∧ i.wellFormed = true

section
variable {w : Word} {i : Instr}

theorem isWordOf_of_family0 (h : decodeFamily0 w = some i) : IsWordOf w i := by
  unfold decodeFamily0 at h
  split_ifs at h with hclear hreturn
  all_goals
    cases h
    exact ⟨Eq.symm ‹_›, rfl⟩

theorem isWordOf_of_family5 (hn3 : fieldN3 w = 5) (h : decodeFamily5 w = some i) : IsWordOf w i := by
  unfold decodeFamily5 at h
  split_ifs at h with hkey
  cases h
  exact ⟨formXY_fields hn3 hkey, rfl⟩

theorem isWordOf_of_family8 (hn3 : fieldN3 w = 8) (h : decodeFamily8 w = some i) : IsWordOf w i := by
  unfold decodeFamily8 at h
  split at h
  case h_10 => cases h
  all_goals
    cases h
    exact ⟨formXY_fields hn3 ‹_›, rfl⟩

theorem isWordOf_of_family9 (hn3 : fieldN3 w = 9) (h : decodeFamily9 w = some i) : IsWordOf w i := by
  unfold decodeFamily9 at h
  split_ifs at h with hkey
  cases h
  exact ⟨formXY_fields hn3 hkey, rfl⟩

theorem isWordOf_of_familyE (hn3 : fieldN3 w = 0xE) (h : decodeFamilyE w = some i) : IsWordOf w i := by
  unfold decodeFamilyE at h
  split at h
  case h_3 => cases h
  all_goals
    cases h
    exact ⟨formXF_fields hn3 ‹_›, rfl⟩

theorem isWordOf_of_familyF (hn3 : fieldN3 w = 0xF) (h : decodeFamilyF w = some i) : IsWordOf w i := by
  unfold decodeFamilyF at h
  split at h
  case h_10 => cases h
  all_goals
    cases h
    exact ⟨formXF_fields hn3 ‹_›, rfl⟩

/-- The first nibble selects the family, or the one instruction it has. -/
theorem isWordOf_of_decodeTree (h : decodeTree w = some i) : IsWordOf w i := by
  unfold decodeTree at h
  split at h
  case h_1 => exact isWordOf_of_family0 h
  case h_6 hn3 => exact isWordOf_of_family5 hn3 h
  case h_9 hn3 => exact isWordOf_of_family8 hn3 h
  case h_10 hn3 => exact isWordOf_of_family9 hn3 h
  case h_15 hn3 => exact isWordOf_of_familyE hn3 h
  case h_16 hn3 => exact isWordOf_of_familyF hn3 h
  case h_17 => cases h
  case h_2 hn3 | h_3 hn3 | h_11 hn3 | h_12 hn3 =>
    cases h
    exact ⟨formA_fields hn3, rfl⟩
  case h_4 hn3 | h_5 hn3 | h_7 hn3 | h_8 hn3 | h_13 hn3 =>
    cases h
    exact ⟨formXI_fields hn3, rfl⟩
  case h_14 hn3 =>
    cases h
    exact ⟨formXY_fields hn3 rfl, decide_eq_true (Nat.mod_lt _ (by decide))⟩

/-- Two bytes decode to what their word decodes to, and leave the bytes after them (R34). -/
theorem decode_eq_ok {hi lo : Byte} {rest rest' : List Byte} :
    decode (hi :: lo :: rest) = .ok (i, rest') ↔ decodeWord (concatBytes hi lo) = .ok i ∧ rest = rest' := by
  cases hw : decodeWord (concatBytes hi lo) <;> simp [decode, hw]

theorem decode_encodeBytes_append (hi : i.wellFormed = true) (rest : List Byte) :
    decode (encodeBytes i ++ rest) = .ok (i, rest) := by
  refine decode_eq_ok.2 ⟨?_, rfl⟩
  rw [concatBytes_highByte_lowByte, decodeWord_encode hi]

end

/-! ### The mask of a row is the mask of its family's key (R53, R55) -/

/-- The bits that select the instruction among the words with first nibble `n3`: the first nibble with the whole word,
the last nibble, the low byte or nothing more as secondary key (R53). -/
def keyMask (n3 : Nat) : Word :=
  match n3 with
  | 0x0 => 0xFFFF
  | 0x5 | 0x8 | 0x9 => 0xF00F
  | 0xE | 0xF => 0xF0FF
  | _ => 0xF000

section
variable {w w' : Word} {i : Instr} {r r' : OpcodeRow}

theorem fieldN3_congr (h : w &&& 0xF000 = w' &&& 0xF000) : fieldN3 w = fieldN3 w' := by
  have hnat := congrArg BitVec.toNat h
  rw [and_F000, and_F000] at hnat
  rw [fieldN3_eq_div, fieldN3_eq_div]
  omega

theorem fieldN_congr (h : w &&& 0xF00F = w' &&& 0xF00F) : fieldN w = fieldN w' := by
  have hnat := congrArg BitVec.toNat h
  rw [and_F00F, and_F00F] at hnat
  unfold fieldN
  omega

theorem fieldNN_congr (h : w &&& 0xF0FF = w' &&& 0xF0FF) : fieldNN w = fieldNN w' := by
  have hnat := congrArg BitVec.toNat h
  rw [and_F0FF, and_F0FF] at hnat
  apply BitVec.eq_of_toNat_eq
  rw [fieldNN_toNat, fieldNN_toNat]
  omega

/-- Every key holds the first nibble. -/
theorem keyMask_and_F000 (n3 : Nat) : keyMask n3 &&& 0xF000 = 0xF000 := by
  unfold keyMask
  split <;> rfl

/-- Two words with the same key decode to instructions of the same name, or both to none. -/
theorem decodeTree_name_congr (h : w &&& keyMask (fieldN3 w') = w' &&& keyMask (fieldN3 w')) :
    (decodeTree w).map Instr.name = (decodeTree w').map Instr.name := by
  have hn3 : fieldN3 w = fieldN3 w' := by
    apply fieldN3_congr
    rw [← keyMask_and_F000 (fieldN3 w'), ← BitVec.and_assoc, h, BitVec.and_assoc]
  unfold decodeTree
  rw [hn3]
  split
  case h_1 hfamily =>
    rw [hfamily, keyMask, and_FFFF, and_FFFF] at h
    rw [h]
  case h_6 hfamily =>
    rw [hfamily, keyMask] at h
    simp only [decodeFamily5, fieldN_congr h]
    split_ifs <;> rfl
  case h_9 hfamily =>
    rw [hfamily, keyMask] at h
    simp only [decodeFamily8, fieldN_congr h]
    split <;> rfl
  case h_10 hfamily =>
    rw [hfamily, keyMask] at h
    simp only [decodeFamily9, fieldN_congr h]
    split_ifs <;> rfl
  case h_15 hfamily =>
    rw [hfamily, keyMask] at h
    simp only [decodeFamilyE, fieldNN_congr h]
    split <;> rfl
  case h_16 hfamily =>
    rw [hfamily, keyMask] at h
    simp only [decodeFamilyF, fieldNN_congr h]
    split <;> rfl
  all_goals rfl

/-- The table as a table of keys: each row's value has the row's own name, within the mask of its family. -/
theorem opcodeTable_key : ∀ r ∈ opcodeTable, r.mask = keyMask (fieldN3 r.value) ∧ r.value &&& r.mask = r.value ∧
    (decodeTree r.value).map Instr.name = some r.name := by
  decide

/-- No two rows have the same name. -/
theorem opcodeTable_name_injective : ∀ r ∈ opcodeTable, ∀ r' ∈ opcodeTable, r.name = r'.name → r = r' := by
  decide

/-- A word that a row selects decodes to an instruction of the row's name: it has the key of the row's value. -/
theorem decodes_of_selects (hr : r ∈ opcodeTable) (h : r.selects w = true) :
    ∃ i, decodeWord w = .ok i ∧ i.name = r.name := by
  obtain ⟨hmask, hvalue, hname⟩ := opcodeTable_key r hr
  have hw : w &&& r.mask = r.value := beq_iff_eq.1 h
  rw [← decodeTree_name_congr (w := w) (by rw [← hmask, hw, hvalue])] at hname
  obtain ⟨i, hi, hiname⟩ := Option.map_eq_some_iff.1 hname
  exact ⟨i, decodeWord_eq_ok.2 hi, hiname⟩

/-- Every instruction's word is selected by the row of its name. -/
theorem encode_selected (i : Instr) : Laws.EncodeMatch.Statement i :=
  match i with
  | .op00E0 => Laws.EncodeMatch.op00E0
  | .op00EE => Laws.EncodeMatch.op00EE
  | .op1NNN nnn => Laws.EncodeMatch.op1NNN nnn
  | .op2NNN nnn => Laws.EncodeMatch.op2NNN nnn
  | .op3XNN x nn => Laws.EncodeMatch.op3XNN x nn
  | .op4XNN x nn => Laws.EncodeMatch.op4XNN x nn
  | .op5XY0 x y => Laws.EncodeMatch.op5XY0 x y
  | .op6XNN x nn => Laws.EncodeMatch.op6XNN x nn
  | .op7XNN x nn => Laws.EncodeMatch.op7XNN x nn
  | .op8XY0 x y => Laws.EncodeMatch.op8XY0 x y
  | .op8XY1 x y => Laws.EncodeMatch.op8XY1 x y
  | .op8XY2 x y => Laws.EncodeMatch.op8XY2 x y
  | .op8XY3 x y => Laws.EncodeMatch.op8XY3 x y
  | .op8XY4 x y => Laws.EncodeMatch.op8XY4 x y
  | .op8XY5 x y => Laws.EncodeMatch.op8XY5 x y
  | .op8XY6 x y => Laws.EncodeMatch.op8XY6 x y
  | .op8XY7 x y => Laws.EncodeMatch.op8XY7 x y
  | .op8XYE x y => Laws.EncodeMatch.op8XYE x y
  | .op9XY0 x y => Laws.EncodeMatch.op9XY0 x y
  | .opANNN nnn => Laws.EncodeMatch.opANNN nnn
  | .opBNNN nnn => Laws.EncodeMatch.opBNNN nnn
  | .opCXNN x nn => Laws.EncodeMatch.opCXNN x nn
  | .opDXYN x y n => Laws.EncodeMatch.opDXYN x y n
  | .opEX9E x => Laws.EncodeMatch.opEX9E x
  | .opEXA1 x => Laws.EncodeMatch.opEXA1 x
  | .opFX07 x => Laws.EncodeMatch.opFX07 x
  | .opFX0A x => Laws.EncodeMatch.opFX0A x
  | .opFX15 x => Laws.EncodeMatch.opFX15 x
  | .opFX18 x => Laws.EncodeMatch.opFX18 x
  | .opFX1E x => Laws.EncodeMatch.opFX1E x
  | .opFX29 x => Laws.EncodeMatch.opFX29 x
  | .opFX33 x => Laws.EncodeMatch.opFX33 x
  | .opFX55 x => Laws.EncodeMatch.opFX55 x
  | .opFX65 x => Laws.EncodeMatch.opFX65 x

/-- A word that decodes to an instruction of a row's name is selected by the row: it is the instruction's encoding. -/
theorem selects_of_decodes (hr : r ∈ opcodeTable) (h : decodeWord w = .ok i) (hname : i.name = r.name) :
    r.selects w = true := by
  obtain ⟨hw, -⟩ := isWordOf_of_decodeTree (decodeWord_eq_ok.1 h)
  obtain ⟨r', hr', hname', hsel⟩ := encode_selected i
  rw [hw] at hsel
  rwa [opcodeTable_name_injective r hr r' hr' (hname.symm.trans hname'.symm)]

/-- No two rows select the same word: they would have the name of what it decodes to. -/
theorem row_unique (hr : r ∈ opcodeTable) (hr' : r' ∈ opcodeTable) (h : r.selects w = true)
    (h' : r'.selects w = true) : r = r' := by
  obtain ⟨i, hi, hname⟩ := decodes_of_selects hr h
  obtain ⟨i', hi', hname'⟩ := decodes_of_selects hr' h'
  cases hi.symm.trans hi'
  exact opcodeTable_name_injective r hr r' hr' (hname.symm.trans hname')

end

/-- Settles O1: the tree finds the encoded instruction, and its two bytes make up its word. -/
theorem decodeInvertsEncode : Obligations.DecodeInvertsEncode :=
  fun _ hi => ⟨decodeWord_encode hi, decode_encodeBytes_append hi⟩

/-- Settles O2: family by family, a word is its form on its own fields. -/
theorem encodeInvertsDecode : Obligations.EncodeInvertsDecode :=
  fun _ _ h => isWordOf_of_decodeTree (decodeWord_eq_ok.1 h)

/-- Settles O3: a row's mask is its family's key, and the key decides the name of what a word decodes to. -/
theorem decodeSelectsTheTableRow : Obligations.DecodeSelectsTheTableRow :=
  ⟨rfl, fun _ hr _ hr' _ => row_unique hr hr', fun _ _ hr =>
    ⟨decodes_of_selects hr, fun ⟨_, hi, hname⟩ => selects_of_decodes hr hi hname⟩⟩

/-- Settles O5, by evaluating the decoder. -/
theorem specWordsDecodeToTheirInstructions : Obligations.SpecWordsDecodeToTheirInstructions := by
  unfold Obligations.SpecWordsDecodeToTheirInstructions
  decide

end Sys2Proof

/-! ## 30_encoding and 20_memory: a step is the fetch, the decode and the instruction (R33, R52, R161, R204) -/

namespace Sys2Proof.Machine

section
variable {s : State} {i : Instr} {op : Word} {e : DecodeError}

/-! ### The three ways a step of a running core goes (R52) -/

theorem fetchExecute_of_outOfRange (h : s.fetchWord = none) :
    fetchExecute s = .next (s.faulted .fetchOutOfRange 0x0000 s.pc.toNat) := by
  unfold fetchExecute
  rw [h]
  exact raise_eq

theorem fetchExecute_of_illegal (hw : s.fetchWord = some op) (hd : decodeWord op = .error e) :
    fetchExecute s = .next (s.faulted .illegalInstruction op 0) := by
  simp only [fetchExecute, hw, hd, raise_eq]

theorem fetchExecute_of_decoded (hw : s.fetchWord = some op) (hd : decodeWord op = .ok i) :
    fetchExecute s = exec i s := by
  simp only [fetchExecute, hw, hd]

/-- The step of a running core fetches and executes after the driver's turn. -/
theorem step_of_running (hfault : s.fault = none) (hloaded : s.loaded = true) : step s = fetchExecute s.takeTurn :=
  cycle_of_running (s := s.takeTurn) hfault hloaded

/-- Where a fetch can read, the word is the two bytes at `pc`, big-endian (R33, R34). -/
theorem fetchWord_of_le (h : s.pc.toNat ≤ 0x0FFE) :
    s.fetchWord = some (concatBytes (s.mem.read s.pc.toNat) (s.mem.read (s.pc.toNat + 1))) := by
  rcases fetchWord_cases s with ⟨-, hw⟩ | ⟨hpc, -⟩
  · exact hw
  · omega

theorem fetchWord_of_gt (h : 0x0FFE < s.pc.toNat) : s.fetchWord = none := by
  rcases fetchWord_cases s with ⟨hpc, -⟩ | ⟨-, hw⟩
  · omega
  · exact hw

theorem step_of_decoded (h : s.Ready) (hw : s.fetchWord = some op) (hd : decodeWord op = .ok i) :
    step s = exec i s.takeTurn := by
  obtain ⟨hfault, hloaded, -⟩ := h
  exact (step_of_running hfault hloaded).trans (fetchExecute_of_decoded hw hd)

/-! ### The finished program (R204) -/

/-- The word of a finished program is the jump to its own address. -/
theorem decodes_selfJump (h : s.pc.toNat ≤ 0x0FFE) :
    Decodes (0x1000 + s.pc.toNat) (.op1NNN (BitVec.ofNat 12 s.pc.toNat)) := by
  refine decodes_of_encode_toNat rfl ((formA_toNat (by decide) _).trans ?_)
  rw [BitVec.toNat_ofNat]
  omega

theorem addrOperand_pc (h : s.pc.toNat ≤ 0x0FFE) : addrOperand (BitVec.ofNat 12 s.pc.toNat) = s.pc := by
  apply BitVec.eq_of_toNat_eq
  rw [addrOperand_toNat, BitVec.toNat_ofNat]
  omega

/-- So its step writes nothing but the output. -/
theorem step_of_finished (h : s.Finished) : step s = .next { s.takeTurn with redraw := some false } := by
  obtain ⟨hready, hword⟩ := h
  have ⟨_, _, hpc⟩ := hready
  rw [step_of_decoded hready hword (decodes_selfJump hpc), exec_jump, addrOperand_pc hpc]
  rfl

end

/-- Settles O6: the two bytes at `pc` are the word the step fetches. -/
theorem stepRunsTheDecodedInstruction : Obligations.StepRunsTheDecodedInstruction := by
  intro s i hready _ hdecode
  have ⟨_, _, hpc⟩ := hready
  exact ⟨step_of_decoded hready (fetchWord_of_le hpc) (decode_eq_ok.1 hdecode).1, rfl⟩

/-- Settles O7: `pc` is a place a fetch can read, or it is not. -/
theorem fetchReadsTwoBytesOrFaults : Obligations.FetchReadsTwoBytesOrFaults := by
  refine fun s => ⟨fun hout => ⟨fetchWord_of_gt hout, fun hfault hloaded => ?_⟩, fun hin => ?_⟩
  · exact (step_of_running hfault hloaded).trans (fetchExecute_of_outOfRange (s := s.takeTurn) (fetchWord_of_gt hout))
  · exact ⟨_, fetchWord_of_le hin, concatBytes_toNat _ _⟩

/-- Settles O8: the decode fault is raised from the state after the driver's turn. -/
theorem illegalWordRaisesBeforeAnyWrite : Obligations.IllegalWordRaisesBeforeAnyWrite := by
  refine ⟨rfl, fun s w e hready hword hdecode => ?_⟩
  obtain ⟨hfault, hloaded, -⟩ := hready
  exact (step_of_running hfault hloaded).trans (fetchExecute_of_illegal hword hdecode)

/-- Settles O17: the jump goes to its own address, and the fetch does not read what the driver's turn and the output
change. -/
theorem finishedProgramStaysFinished : Obligations.FinishedProgramStaysFinished := by
  refine fun s h => ⟨fun hhalted => ?_, step_of_finished h, h⟩
  obtain ⟨r, hfault⟩ := Option.isSome_iff_exists.1 hhalted
  exact not_finished_of_fault hfault h

end Sys2Proof.Machine

/-! ## 41_register_alu and 42_index_memory: flags, and transfers one after the other -/

namespace Sys2Proof.Machine

section
variable {s t : State} {x k : RegNum} {a b : Byte}

/-! ### The two no-borrow flags on one pair of operands (R97, R99) -/

theorem noBorrow_eq_true : noBorrow a b = true ↔ b.toNat < a.toNat := decide_eq_true_iff

theorem not_noBorrow_both : ¬ (noBorrow a b = true ∧ noBorrow b a = true) := by
  rw [noBorrow_eq_true, noBorrow_eq_true]
  omega

theorem noBorrow_neither : noBorrow a b = false ∧ noBorrow b a = false ↔ a = b := by
  rw [← Bool.not_eq_true, ← Bool.not_eq_true, noBorrow_eq_true, noBorrow_eq_true, ← BitVec.toNat_inj]
  omega

/-! ### What a completed transfer leaves (R113 to R115) -/

/-- What a completed FX55 leaves, from its exact next state. -/
theorem store_next (hm : s.mem.wf = true) (hin : s.i.toNat + x.val ≤ 0x0FFF) (h : exec (.opFX55 x) s = .next t) :
    t = { s with mem := t.mem, i := t.i, pc := s.pc + 2, redraw := some false } ∧
      ∀ k : RegNum, k.val ≤ x.val → t.mem.read (s.i.toNat + k.val) = s.readV k := by
  obtain ⟨-, -, hstore⟩ := storeRegisters s x hm
  obtain ⟨u, hu, hframe, -, hread, -⟩ := hstore hin
  cases hu.symm.trans h
  exact ⟨hframe, hread⟩

/-- The fetched word, from the two bytes it is made of. -/
theorem fetchWord_at {n : Nat} {hi lo : Byte} (hn : n ≤ 0x0FFE) (hpc : s.pc.toNat = n) (hhi : s.mem.read n = hi)
    (hlo : s.mem.read (n + 1) = lo) : s.fetchWord = some (BitVec.ofNat 16 (hi.toNat * 0x100 + lo.toNat)) := by
  subst hpc hhi hlo
  exact fetchWord_of_le hn

end

/-- Settles O24: the two flags are the two strict orders of the operands. -/
theorem subtractFlagsExcludeEachOther : Obligations.SubtractFlagsExcludeEachOther := by
  intro s t u x y ht hu
  cases ht
  cases hu
  rw [readV_writeResultAndFlag_flag, readV_writeResultAndFlag_flag, flagByte_eq_one, flagByte_eq_one,
    flagByte_eq_zero, flagByte_eq_zero]
  exact ⟨not_noBorrow_both, noBorrow_neither⟩

/-- Settles O30: the load reads the bytes the store left. -/
theorem storeThenLoadGivesRegistersBack : Obligations.StoreThenLoadGivesRegistersBack := by
  intro s t x v hm hin h
  obtain ⟨hframe, hstored⟩ := store_next hm hin h
  obtain ⟨-, -, hload⟩ := loadRegisters { t with v := v, i := s.i } x
  obtain ⟨u, hu, huframe, -, hloaded, -⟩ := hload hin
  refine ⟨u, hu, ?_, fun k hk => (hloaded k hk).trans (hstored k hk)⟩
  rw [huframe, hframe]

/-- Settles O32: the fetch reads two neighbouring bytes of the run stored. -/
theorem storesAreSeenByTheFetch : Obligations.StoresAreSeenByTheFetch := by
  refine fun s t x hm => ⟨fun h hin k k' hk hk' => ?registers, fun h hin => ?digits⟩
  case registers =>
    obtain ⟨-, hstored⟩ := store_next hm hin h
    refine fetchWord_at (n := s.i.toNat + k.val) (by omega) ?_ (hstored k (by omega)) ?_
    · exact (BitVec.toNat_ofNat _ 16).trans (Nat.mod_eq_of_lt (by omega))
    · rw [Nat.add_assoc, ← hk]
      exact hstored k' hk'
  case digits =>
    obtain ⟨-, -, hstore⟩ := storeDecimalDigits s x hm
    obtain ⟨u, hu, -, hhundreds, htens, -⟩ := hstore hin
    cases hu.symm.trans h
    rw [← hhundreds, ← htens]
    exact fetchWord_at (n := s.i.toNat) (by omega) rfl rfl rfl

end Sys2Proof.Machine

/-! ## 43_display: the same sprite drawn twice (R128, R131) -/

namespace Sys2Proof.Machine

section
variable {s : State} {x y k : RegNum} {n : Nat}

/-- The state after DXYN has drawn. -/
def State.drawn (s : State) (x y : RegNum) (n : Nat) : State :=
  ((s.beginExecute.setDisp (s.drawing x y n).disp).setFlag (s.drawing x y n).hit).requestRedraw

theorem drawn_getPixel (s : State) (x y : RegNum) (n : Nat) (px : Fin 64) (py : Fin 32) :
    (s.drawn x y n).disp.getPixel px py = (s.disp.getPixel px py ^^ s.spriteHas x y n px py) :=
  drawing_getPixel s x y n px py

theorem drawn_readV_flag : (s.drawn x y n).readV 15 = flagByte (s.drawing x y n).hit :=
  readV_writeV_same _ 15 _

theorem drawn_readV_other (hk : k ≠ 15) : (s.drawn x y n).readV k = s.readV k :=
  readV_writeV_other _ hk _

/-- A draw leaves its own sprite where it was, unless the flag is one of its coordinates. -/
theorem drawn_spriteHas (hx : x ≠ 15) (hy : y ≠ 15) (px : Fin 64) (py : Fin 32) :
    (s.drawn x y n).spriteHas x y n px py = s.spriteHas x y n px py := by
  unfold State.spriteHas
  rw [drawn_readV_other hx, drawn_readV_other hy]
  rfl

/-- The second draw turns every pixel back. -/
theorem drawn_twice_disp (hx : x ≠ 15) (hy : y ≠ 15) : ((s.drawn x y n).drawn x y n).disp = s.disp := by
  apply Display.ext_getPixel
  intro px py
  rw [drawn_getPixel, drawn_getPixel, drawn_spriteHas hx hy, Bool.xor_assoc, Bool.xor_self, Bool.xor_false]

/-- It collides where the first one turned a pixel on. -/
theorem drawn_twice_flag (hx : x ≠ 15) (hy : y ≠ 15) : ((s.drawn x y n).drawn x y n).readV 15 = 0x01 ↔
    ∃ px py, s.spriteHas x y n px py = true ∧ s.disp.getPixel px py = false := by
  have hbit (on bit : Bool) : (on ^^ bit) = true ∧ on = false ↔ bit = true ∧ on = false := by
    cases on <;> cases bit <;> decide
  calc ((s.drawn x y n).drawn x y n).readV 15 = 0x01
    _ ↔ ∃ px py, (s.drawn x y n).disp.getPixel px py = true ∧
          ((s.drawn x y n).drawn x y n).disp.getPixel px py = false := by
      rw [drawn_readV_flag]
      exact flagByte_eq_one.trans drawing_hit
    _ ↔ ∃ px py, s.spriteHas x y n px py = true ∧ s.disp.getPixel px py = false := by
      simp only [drawn_twice_disp hx hy, drawn_getPixel, hbit]

end

/-- Settles O35: the second draw XORs the same bits as the first. -/
theorem drawingTwiceRestoresTheDisplay : Obligations.DrawingTwiceRestoresTheDisplay := by
  intro s t u x y n hx hy hin ht hu
  cases (exec_draw_of_inRange hin).symm.trans ht
  cases (exec_draw_of_inRange (s := s.drawn x y n) hin).symm.trans hu
  exact ⟨drawn_twice_disp hx hy, drawn_twice_flag hx hy⟩

end Sys2Proof.Machine

/-! ## The whole machine: quirk bits, flags, what is written where, faults (R11, R21, R160, R166) -/

namespace Sys2Proof.Machine

/-! ### A quirk bit reaches only its own instructions (R21) -/

section
variable {i : Instr} {s t : State} {q : BitVec 6}

/-- With other quirk bits that agree on the one the instruction looks at, the answer is the same with those bits in it. -/
theorem exec_withQuirks (hsame : i.sameQuirk s.q q) (h : exec i s = .next t) :
    exec i { s with q := q } = .next { t with q := q } := by
  cases i
  case op00EE =>
    rcases List.eq_nil_or_concat' s.stack with hs | ⟨rest, w, hs⟩
    · cases (exec_return_of_empty hs).symm.trans h
      exact exec_return_of_empty hs
    · cases (exec_return_of_concat hs).symm.trans h
      exact exec_return_of_concat hs
  case op2NNN nnn =>
    by_cases hfull : s.stackDepth = .bounded s.stack.length
    · cases (exec_call_of_full nnn hfull).symm.trans h
      exact exec_call_of_full nnn hfull
    · cases (exec_call_of_room nnn hfull).symm.trans h
      exact exec_call_of_room nnn hfull
  case op8XY6 x y | op8XYE x y =>
    cases h
    have hbit : s.q.getLsbD 0 = q.getLsbD 0 := hsame
    rw [shiftOperand_eq, hbit]
    rfl
  case opBNNN nnn =>
    cases h
    have hbit : s.q.getLsbD 2 = q.getLsbD 2 := hsame
    simp only [exec_jumpOffset, State.jumpTarget, State.jumpOffsetUsesVx, hbit]
    rfl
  case opFX0A x =>
    cases hr : s.input.released with
    | none =>
      cases (exec_waitForKey_of_none hr).symm.trans h
      exact exec_waitForKey_of_none hr
    | some key =>
      cases (exec_waitForKey_of_some hr).symm.trans h
      exact exec_waitForKey_of_some hr
  case opFX1E x =>
    have hbit : s.q.getLsbD 3 = q.getLsbD 3 := hsame
    cases hq : s.q.getLsbD 3 with
    | true =>
      cases (exec_addToIndex_of_quirk hq).symm.trans h
      exact exec_addToIndex_of_quirk (hbit.symm.trans hq)
    | false =>
      cases (exec_addToIndex_of_no_quirk hq).symm.trans h
      exact exec_addToIndex_of_no_quirk (hbit.symm.trans hq)
  case opFX55 x | opFX65 x =>
    have hbit : s.q.getLsbD 1 = q.getLsbD 1 := hsame
    have hindex : ∀ n, s.indexAfter n = State.indexAfter { s with q := q } n :=
      fun n => congrArg (fun b : Bool => if b then trunc16 (s.i.toNat + n) else s.i) hbit
    simp only [exec, execFX55, execFX65, hindex] at h
    exact withDataRange_map (fun u => { u with q := q }) rfl (fun _ _ _ => rfl) h
  case opEX9E x | opEXA1 x => exact withKeyIndex_map (fun u => { u with q := q }) (fun _ _ _ => rfl) h
  case opDXYN _ _ _ | opFX33 x => exact withDataRange_map (fun u => { u with q := q }) rfl (fun _ _ _ => rfl) h
  all_goals
    cases h
    rfl

end

/-! ### A completing flag producer leaves a flag byte in VF (R11, R104) -/

section
variable {i : Instr} {s t : State} {c : Bool}

theorem flagByte_zero_or_one : flagByte c = 0x00 ∨ flagByte c = 0x01 := by
  cases c
  · exact .inl rfl
  · exact .inr rfl

theorem exec_flag (hflag : i.producesFlag s = true) (h : exec i s = .next t) (hr : t.redraw ≠ none) :
    ∃ c, t.readV 15 = flagByte c := by
  cases i
  case op8XY4 x y | op8XY5 x y | op8XY6 x y | op8XY7 x y | op8XYE x y =>
    cases h
    exact ⟨_, readV_writeResultAndFlag_flag⟩
  case opDXYN x y n =>
    by_cases hin : s.InRange n
    · cases (exec_draw_of_inRange hin).symm.trans h
      exact ⟨_, drawn_readV_flag⟩
    · cases (exec_outOfRange (i := .opDXYN x y n) hin).symm.trans h
      exact absurd rfl hr
  case opFX1E x =>
    have hq : s.q.getLsbD 3 = false := (Bool.not_eq_true' _).mp hflag
    cases (exec_addToIndex_of_no_quirk hq).symm.trans h
    exact ⟨_, readV_writeV_same _ 15 _⟩
  all_goals cases hflag

end

/-! ### What each instruction may write (R12, R15, R18, R19, R39, R126) -/

/-- From `s` to `t` the instruction `i` has changed `I`, the stack, the timers, memory and the display only where the
spec has it write them. -/
def WritesOnlyItsOwn (i : Instr) (s t : State) : Prop :=
  (t.i ≠ s.i → (∃ nnn, i = .opANNN nnn) ∨ ∃ x, i = .opFX1E x ∨ i = .opFX29 x ∨
    ((i = .opFX55 x ∨ i = .opFX65 x) ∧ s.q.getLsbD 1 = true)) ∧
  (t.stack ≠ s.stack → i = .op00EE ∨ ∃ nnn, i = .op2NNN nnn) ∧
  (t.dt ≠ s.dt → ∃ x, i = .opFX15 x) ∧
  (t.st ≠ s.st → ∃ x, i = .opFX18 x) ∧
  (t.mem ≠ s.mem → ∃ x, i = .opFX33 x ∨ i = .opFX55 x) ∧
  (t.disp ≠ s.disp → i = .op00E0 ∨ ∃ x y n, i = .opDXYN x y n)

section
variable {i : Instr} {s t : State} {count : Nat} {code : Byte} {word : Word} {done : State}

theorem writesOnlyItsOwn_of_kept (hi : t.i = s.i) (hstack : t.stack = s.stack) (hdt : t.dt = s.dt) (hst : t.st = s.st)
    (hmem : t.mem = s.mem) (hdisp : t.disp = s.disp) : WritesOnlyItsOwn i s t :=
  ⟨absurd hi, absurd hstack, absurd hdt, absurd hst, absurd hmem, absurd hdisp⟩

theorem writesOnlyItsOwn_faulted (i : Instr) (s : State) (c : FaultCause) (w : Word) (n : Nat) :
    WritesOnlyItsOwn i s (s.faulted c w n) :=
  writesOnlyItsOwn_of_kept rfl rfl rfl rfl rfl rfl

theorem withDataRange_writesOnlyItsOwn (h : withDataRange s count word done = .next t)
    (hdone : WritesOnlyItsOwn i s done) : WritesOnlyItsOwn i s t := by
  rcases withDataRange_cases (s := s) with ⟨-, hw⟩ | ⟨-, hw⟩
  · cases hw.symm.trans h
    exact hdone
  · cases hw.symm.trans h
    exact writesOnlyItsOwn_faulted i s _ _ _

theorem withKeyIndex_writesOnlyItsOwn (h : withKeyIndex s code word done = .next t)
    (hdone : WritesOnlyItsOwn i s done) : WritesOnlyItsOwn i s t := by
  rcases withKeyIndex_cases (s := s) with ⟨-, hw⟩ | ⟨-, hw⟩
  · cases hw.symm.trans h
    exact hdone
  · cases hw.symm.trans h
    exact writesOnlyItsOwn_faulted i s _ _ _

/-- FX55 and FX65 move `I` only with quirk bit 1 at 1. -/
theorem quirk_of_indexAfter_ne (h : s.indexAfter count ≠ s.i) : s.q.getLsbD 1 = true := by
  by_contra hq
  exact h (if_neg hq)

theorem exec_writesOnlyItsOwn (h : exec i s = .next t) : WritesOnlyItsOwn i s t := by
  cases i
  case op00E0 =>
    cases h
    exact ⟨absurd rfl, absurd rfl, absurd rfl, absurd rfl, absurd rfl, fun _ => .inl rfl⟩
  case opDXYN x y n =>
    exact withDataRange_writesOnlyItsOwn h
      ⟨absurd rfl, absurd rfl, absurd rfl, absurd rfl, absurd rfl, fun _ => .inr ⟨x, y, n, rfl⟩⟩
  case op00EE =>
    rcases List.eq_nil_or_concat' s.stack with hs | ⟨rest, w, hs⟩
    · cases (exec_return_of_empty hs).symm.trans h
      exact writesOnlyItsOwn_faulted _ s _ _ _
    · cases (exec_return_of_concat hs).symm.trans h
      exact ⟨absurd rfl, fun _ => .inl rfl, absurd rfl, absurd rfl, absurd rfl, absurd rfl⟩
  case op2NNN nnn =>
    by_cases hfull : s.stackDepth = .bounded s.stack.length
    · cases (exec_call_of_full nnn hfull).symm.trans h
      exact writesOnlyItsOwn_faulted _ s _ _ _
    · cases (exec_call_of_room nnn hfull).symm.trans h
      exact ⟨absurd rfl, fun _ => .inr ⟨nnn, rfl⟩, absurd rfl, absurd rfl, absurd rfl, absurd rfl⟩
  case opANNN nnn =>
    cases h
    exact ⟨fun _ => .inl ⟨nnn, rfl⟩, absurd rfl, absurd rfl, absurd rfl, absurd rfl, absurd rfl⟩
  case opFX29 x =>
    cases h
    exact ⟨fun _ => .inr ⟨x, .inr (.inl rfl)⟩, absurd rfl, absurd rfl, absurd rfl, absurd rfl, absurd rfl⟩
  case opFX1E x =>
    cases hq : s.q.getLsbD 3 with
    | true =>
      cases (exec_addToIndex_of_quirk hq).symm.trans h
      exact ⟨fun _ => .inr ⟨x, .inl rfl⟩, absurd rfl, absurd rfl, absurd rfl, absurd rfl, absurd rfl⟩
    | false =>
      cases (exec_addToIndex_of_no_quirk hq).symm.trans h
      exact ⟨fun _ => .inr ⟨x, .inl rfl⟩, absurd rfl, absurd rfl, absurd rfl, absurd rfl, absurd rfl⟩
  case opFX33 x =>
    exact withDataRange_writesOnlyItsOwn h
      ⟨absurd rfl, absurd rfl, absurd rfl, absurd rfl, fun _ => ⟨x, .inl rfl⟩, absurd rfl⟩
  case opFX55 x =>
    exact withDataRange_writesOnlyItsOwn h
      ⟨fun hi => .inr ⟨x, .inr (.inr ⟨.inl rfl, quirk_of_indexAfter_ne hi⟩)⟩, absurd rfl, absurd rfl, absurd rfl,
        fun _ => ⟨x, .inr rfl⟩, absurd rfl⟩
  case opFX65 x =>
    exact withDataRange_writesOnlyItsOwn h
      ⟨fun hi => .inr ⟨x, .inr (.inr ⟨.inr rfl, quirk_of_indexAfter_ne hi⟩)⟩, absurd rfl, absurd rfl, absurd rfl,
        absurd rfl, absurd rfl⟩
  case opFX15 x =>
    cases h
    exact ⟨absurd rfl, absurd rfl, fun _ => ⟨x, rfl⟩, absurd rfl, absurd rfl, absurd rfl⟩
  case opFX18 x =>
    cases h
    exact ⟨absurd rfl, absurd rfl, absurd rfl, fun _ => ⟨x, rfl⟩, absurd rfl, absurd rfl⟩
  case opEX9E x | opEXA1 x =>
    exact withKeyIndex_writesOnlyItsOwn h (writesOnlyItsOwn_of_kept rfl rfl rfl rfl rfl rfl)
  case opFX0A x =>
    cases hr : s.input.released with
    | none =>
      cases (exec_waitForKey_of_none hr).symm.trans h
      exact writesOnlyItsOwn_of_kept rfl rfl rfl rfl rfl rfl
    | some key =>
      cases (exec_waitForKey_of_some hr).symm.trans h
      exact writesOnlyItsOwn_of_kept rfl rfl rfl rfl rfl rfl
  all_goals
    cases h
    exact writesOnlyItsOwn_of_kept rfl rfl rfl rfl rfl rfl

end

/-- Settles O42: every instruction commutes with a change of the quirk bits it does not look at. -/
theorem quirkBitsReachOnlyTheirInstructions : Obligations.QuirkBitsReachOnlyTheirInstructions :=
  fun _ _ _ _ hsame h => exec_withQuirks hsame h

/-- Settles O44: what they leave in VF is a flag byte. -/
theorem flagsAreZeroOrOne : Obligations.FlagsAreZeroOrOne := by
  intro i s t hflag h hr
  obtain ⟨c, hc⟩ := exec_flag hflag h hr
  rw [hc]
  exact flagByte_zero_or_one

/-- Settles O45, instruction by instruction. -/
theorem stateIsWrittenOnlyByItsInstructions : Obligations.StateIsWrittenOnlyByItsInstructions :=
  fun _ _ _ h => exec_writesOnlyItsOwn h

/-- Settles O47: an answer without an output is the state with a fault latched. -/
theorem everyInstructionAnswersANextState : Obligations.EveryInstructionAnswersANextState := by
  intro i s
  obtain ⟨t, h, -⟩ := exec_answers i s
  refine ⟨t, h, fun hr => ?_⟩
  obtain ⟨c, n, rfl⟩ := exec_faulted_of_no_redraw h hr
  exact Option.some_ne_none _

/-- Settles O49: whoever raises the fault, it is latched in the state after the driver's turn. -/
theorem faultingStepIsVoid : Obligations.FaultingStepIsVoid := by
  intro s t h hr
  obtain ⟨c, w, n, rfl⟩ := step_faulted_of_no_redraw h hr
  exact ⟨_, rfl, rfl, rfl⟩

/-- Settles O50: an instruction without an output has raised one of the four execute-time faults. -/
theorem faultsHaveTheirCauses : Obligations.FaultsHaveTheirCauses := by
  refine ⟨rfl, fun i s t h hr => ?_⟩
  rcases exec_cases h with ⟨hd, -⟩ | ⟨c, n, rfl, hcause⟩
  · cases hr.symm.trans hd
  · refine ⟨_, rfl, rfl, rfl, ?_⟩
    obtain hunderflow | hoverflow | ⟨hc, hpos, hout, hn⟩ | hkey := hcause
    · exact .inl hunderflow
    · exact .inr (.inl hoverflow)
    · exact .inr (.inr (.inl ⟨hc, fun hin => by rw [inRange_iff] at hin; omega, hn⟩))
    · exact .inr (.inr (.inr hkey))

/-- Settles O51: a cycle stays in its session, and no other operation but reset writes the configuration. -/
theorem configurationIsFixed : Obligations.ConfigurationIsFixed := by
  refine ⟨fun s t h => sameSession_of_cycle (s := s.takeTurn) h, fun op s t h hreset => ?_⟩
  cases op with
  | reset p => exact absurd rfl (hreset p)
  | load bytes =>
    obtain ⟨-, -, rfl⟩ := load_next h
    exact ⟨rfl, rfl⟩
  | step input =>
    obtain ⟨hq, hdepth, -⟩ := sameSession_of_cycle h
    exact ⟨hq, hdepth⟩
  | timer op =>
    obtain ⟨-, rfl⟩ := guarded_next h
    exact ⟨rfl, rfl⟩
  | readTimer which =>
    obtain ⟨-, rfl⟩ := guarded_next h
    exact ⟨rfl, rfl⟩

end Sys2Proof.Machine

/-! ## The invariant (R15, R37, R70, R166), and the order of the operations around reset (R191, R198) -/

namespace Sys2Proof.Machine

section
variable {i : Instr} {s t : State}

/-! ### The parts of the invariant as propositions -/

theorem stackOk_iff : s.stackOk = true ↔ ∀ n, s.stackDepth = .bounded n → 1 ≤ n ∧ s.stack.length ≤ n := by
  unfold State.stackOk
  cases s.stackDepth <;> simp

theorem returnsOk_iff : s.returnsOk = true ↔ ∀ w ∈ s.stack, 2 ≤ w.toNat ∧ w.toNat ≤ 0x1000 := by
  simp only [State.returnsOk, List.all_eq_true, Bool.and_eq_true, decide_eq_true_eq]

theorem latchOk_of_none (h : s.fault = none) : s.latchOk = true := by
  unfold State.latchOk
  rw [h]

theorem latchOk_faulted (c : FaultCause) (w : Word) (n : Nat) : (s.faulted c w n).latchOk = true :=
  beq_self_eq_true s.pc

/-- Raising a fault keeps the invariant: only the latch changes, and it names `pc` (R166). -/
theorem inv_faulted (h : s.Inv) (c : FaultCause) (w : Word) (n : Nat) : (s.faulted c w n).Inv := by
  obtain ⟨hmem, hstack, hreturns, hpc, -⟩ := h
  exact ⟨hmem, hstack, hreturns, hpc, latchOk_faulted c w n⟩

/-! ### What an instruction does to each part -/

/-- A range-checked store keeps the memory's canonical form: it stores inside the address space, or not at all. -/
theorem withDataRange_store_wf {count : Nat} {word : Word} {done : State} {bs : List Byte} (hm : s.mem.wf = true)
    (hcount : bs.length = count) (hdone : done.mem = s.mem.writeBytes s.i.toNat bs)
    (h : withDataRange s count word done = .next t) : t.mem.wf = true := by
  subst hcount
  rcases withDataRange_cases (s := s) with ⟨hin, hw⟩ | ⟨-, hw⟩
  · cases hw.symm.trans h
    rw [hdone]
    rcases hin with hin | hnone
    · exact Memory.writeBytes_wf hm hin
    · rwa [List.eq_nil_of_length_eq_zero hnone]
  · cases hw.symm.trans h
    exact hm

/-- Only FX33 and FX55 write memory, and both are range-checked stores. -/
theorem exec_mem_wf (hm : s.mem.wf = true) (h : exec i s = .next t) : t.mem.wf = true := by
  obtain ⟨-, -, -, -, hwrites, -⟩ := exec_writesOnlyItsOwn h
  by_cases hkept : t.mem = s.mem
  · rwa [hkept]
  · obtain ⟨x, rfl | rfl⟩ := hwrites hkept
    · exact withDataRange_store_wf (bs := bcdDigits (s.readV x)) hm rfl rfl h
    · exact withDataRange_store_wf (bs := s.firstRegs x) hm (firstRegs_length s x) rfl h

/-- The stack is kept, or loses its tail to 00EE, or has room and gets a return address from 2NNN (R16, R17). -/
theorem exec_stack_cases (h : exec i s = .next t) :
    t.stack = s.stack ∨ (∃ w, s.stack = t.stack ++ [w]) ∨
      (s.stackDepth ≠ .bounded s.stack.length ∧ t.stack = s.stack ++ [s.pc + 2]) := by
  obtain ⟨-, hwrites, -⟩ := exec_writesOnlyItsOwn h
  by_cases hkept : t.stack = s.stack
  · exact .inl hkept
  · obtain rfl | ⟨nnn, rfl⟩ := hwrites hkept
    · rcases List.eq_nil_or_concat' s.stack with hs | ⟨rest, w, hs⟩
      · cases (exec_return_of_empty hs).symm.trans h
        exact .inl rfl
      · cases (exec_return_of_concat hs).symm.trans h
        exact .inr (.inl ⟨w, hs⟩)
    · by_cases hfull : s.stackDepth = .bounded s.stack.length
      · cases (exec_call_of_full nnn hfull).symm.trans h
        exact .inl rfl
      · cases (exec_call_of_room nnn hfull).symm.trans h
        exact .inr (.inr ⟨hfull, rfl⟩)

theorem exec_stackDepth (h : exec i s = .next t) : t.stackDepth = s.stackDepth := by
  obtain ⟨u, hu, -, hdepth, -⟩ := exec_answers i s
  cases hu.symm.trans h
  exact hdepth

theorem exec_stackOk (hs : s.stackOk = true) (h : exec i s = .next t) : t.stackOk = true := by
  rw [stackOk_iff] at hs ⊢
  rw [exec_stackDepth h]
  intro n hn
  obtain ⟨hpos, hlen⟩ := hs n hn
  rcases exec_stack_cases h with hkept | ⟨w, hpop⟩ | ⟨hroom, hpush⟩
  · rw [hkept]
    exact ⟨hpos, hlen⟩
  · rw [hpop, List.length_append] at hlen
    exact ⟨hpos, by omega⟩
  · have hne : n ≠ s.stack.length := fun he => hroom (he ▸ hn)
    rw [hpush, List.length_append, List.length_singleton]
    exact ⟨hpos, by omega⟩

/-- The return address pushed is two above an address that was fetched. -/
theorem exec_returnsOk (hs : s.returnsOk = true) (hpc : s.pc.toNat ≤ 0x0FFE) (h : exec i s = .next t) :
    t.returnsOk = true := by
  rw [returnsOk_iff] at hs ⊢
  rcases exec_stack_cases h with hkept | ⟨w, hpop⟩ | ⟨-, hpush⟩
  · rwa [hkept]
  · exact fun a ha => hs a (hpop ▸ List.mem_append_left [w] ha)
  · rw [hpush]
    intro a ha
    rcases List.mem_append.1 ha with hold | hnew
    · exact hs a hold
    · obtain rfl := List.mem_singleton.1 hnew
      constructor <;> bv_omega

/-- The bound of R37, row by row of R14's table: a fetched address plus 4, an address plus a byte, or a return address. -/
theorem pcAfter_le (hs : s.returnsOk = true) (hpc : s.pc.toNat ≤ 0x0FFE) : (i.pcAfter s).toNat ≤ 0x10FE := by
  have htwo : (s.pc + 2).toNat ≤ 0x10FE := by bv_omega
  have hfour : (s.pc + 4).toNat ≤ 0x10FE := by bv_omega
  have hskip (p : Prop) [Decidable p] : (if p then s.pc + 4 else s.pc + 2).toNat ≤ 0x10FE := by
    split_ifs
    · exact hfour
    · exact htwo
  cases i
  case op1NNN nnn | op2NNN nnn =>
    change (BitVec.ofNat 16 nnn.toNat).toNat ≤ _
    rw [← addrOperand_eq_ofNat, addrOperand_toNat]
    have := nnn.isLt
    omega
  case op00EE =>
    change (s.stack.getLastD 0).toNat ≤ _
    rcases List.eq_nil_or_concat' s.stack with hnil | ⟨rest, w, hconcat⟩
    · rw [hnil]
      decide
    · have hw := (returnsOk_iff.1 hs) w (hconcat ▸ List.mem_concat_self)
      rw [hconcat, List.getLastD_concat]
      omega
  case opBNNN nnn =>
    change (BitVec.ofNat 16 nnn.toNat + BitVec.ofNat 16 _).toNat ≤ _
    rw [← BitVec.ofNat_add]
    exact (Nat.mod_le _ _).trans (addr_add_byte_le nnn _)
  case op3XNN _ _ | op4XNN _ _ | op5XY0 _ _ | op9XY0 _ _ | opEX9E _ | opEXA1 _ => exact hskip _
  case opFX0A x =>
    change (if s.input.released = none then s.pc else s.pc + 2).toNat ≤ _
    split_ifs
    · omega
    · exact htwo
  all_goals exact htwo

/-! ### Every operation keeps the invariant -/

theorem exec_inv (hs : s.Inv) (hfault : s.fault = none) (hpc : s.pc.toNat ≤ 0x0FFE) (h : exec i s = .next t) :
    t.Inv := by
  rcases exec_cases h with ⟨-, hlatch, -, hafter⟩ | ⟨c, n, rfl, -⟩
  · obtain ⟨hmem, hstack, hreturns, -⟩ := hs
    exact ⟨exec_mem_wf hmem h, exec_stackOk hstack h, exec_returnsOk hreturns hpc h,
      hafter ▸ pcAfter_le hreturns hpc, latchOk_of_none (hlatch.trans hfault)⟩
  · exact inv_faulted hs c _ n

theorem cycle_inv (hs : s.Inv) (h : cycle s = .next t) : t.Inv := by
  obtain ⟨hfault, -, ⟨-, rfl⟩ | ⟨op, hpc, -, ⟨-, rfl⟩ | ⟨i, -, hexec⟩⟩⟩ := cycle_next_cases h
  · exact inv_faulted hs _ _ _
  · exact inv_faulted hs _ _ _
  · exact exec_inv hs hfault hpc hexec

theorem load_inv {bytes : List Byte} (hs : s.Inv) (h : load bytes s = .next t) : t.Inv := by
  obtain ⟨-, hfits, rfl⟩ := load_next h
  obtain ⟨hmem, hrest⟩ := hs
  exact ⟨Memory.writeBytes_wf hmem (program_end_le hfits), hrest⟩

/-- Valid parameters leave a stack that can hold an entry (R5). -/
theorem resetWith_inv {p : Params} (hp : p.valid = true) : (State.resetWith p).Inv := by
  have hstack : (State.resetWith p).stackOk = true := by
    rw [stackOk_iff]
    intro n hn
    change p.stackDepth = .bounded n at hn
    unfold Params.valid at hp
    rw [hn] at hp
    exact ⟨of_decide_eq_true (Bool.and_eq_true_iff.1 hp).2, Nat.zero_le n⟩
  have hpc : 0x200 ≤ 0x10FE := by decide
  exact ⟨resetWith_mem_wf p, hstack, rfl, hpc, rfl⟩

end

/-- Settles O55: the driver's turn touches no part of the invariant, and the cycle keeps it. -/
theorem stepKeepsTheInvariant : Obligations.StepKeepsTheInvariant :=
  fun s _ hs h => cycle_inv (s := s.takeTurn) hs h

/-- Settles O56: reset and load establish or keep it, a step is a cycle, and the timers are no part of it. -/
theorem driverOperationsKeepTheInvariant : Obligations.DriverOperationsKeepTheInvariant := by
  intro op s t hvalid hs h
  cases op with
  | reset p =>
    cases h
    exact resetWith_inv (hvalid p rfl)
  | load bytes => exact load_inv hs h
  | step input => exact cycle_inv (s := { s with input := input, turns := s.turns + 1 }) hs h
  | timer op =>
    obtain ⟨-, rfl⟩ := guarded_next h
    exact hs
  | readTimer which =>
    obtain ⟨-, rfl⟩ := guarded_next h
    exact hs

/-- Settles O54: the parameters State.reset names are valid. -/
theorem resetMeetsTheInvariant : Obligations.ResetMeetsTheInvariant :=
  resetWith_inv (p := defaultParams) (by decide)

/-- Settles O57: the reset state is not loaded and has no fault. -/
theorem resetAsksForANewLoad : Obligations.ResetAsksForANewLoad := by
  intro s p
  refine ⟨State.resetWith p, rfl, rfl, rfl, ?step, fun input => ?performStep, fun bytes hfits => ?load⟩
  case step => exact cycle_of_unloaded (s := (State.resetWith p).takeTurn) rfl rfl
  case performStep =>
    exact cycle_of_unloaded (s := { State.resetWith p with input := input, turns := 1 }) rfl rfl
  case load => exact ⟨_, perform_load_of_fits rfl hfits, rfl⟩

/-- Settles O58: every timer operation looks at the bit `loaded` first. -/
theorem timerOperationsWaitForTheLoad : Obligations.TimerOperationsWaitForTheLoad := by
  intro s hloaded
  have hnot : ¬ s.loaded = true := Bool.not_eq_true _ ▸ hloaded
  exact ⟨fun op => if_neg hnot, fun which => if_neg hnot⟩

end Sys2Proof.Machine
